-- ==== Sys2Proof/Word.lean ====
section
/-! DEFINITION. The words of the part: bytes of the port and of the packets, samples of 24 bits (spec 00 section 6). -/

namespace Sys2Proof

/-- One byte of the control port, of a sound packet or of a console frame (12 R181 to R183). -/
abbrev Byte := BitVec 8

/-- A sample as the windows, the last values and the console link hold it: 24 bits, two's complement (00 section 6). -/
abbrev Sample := BitVec 24

end Sys2Proof
end

