-- ==== Sys2Proof/Syntax.lean ====
section
/-! DEFINITION. The commands of the part: one constructor for each row of spec/opcode_table.json. The table gives the rows no fields; what each carries is said in log 1. -/

namespace Sys2Proof

/-- What a line reached brings: in FOLLOW the number of the arriving line that it carries, and the draws that fall in
this event (R133, log 20): all that the line has left, or one of each (group, channel) listed, in turn. -/
structure LineReach where
  arriving : Nat
  draws : Option (List (Fin 4 × Fin 4))
  deriving DecidableEq, Repr

/-- A command of the block. A command of the control port carries the parameter bytes of its frame (12.2); an event of
a feed, of the reference or of the console carries what the event brings (log 1). -/
inductive Instr where
  /-- RESET_ASSERTED (R180). -/
  | resetAsserted
  /-- RESET_RELEASED (R180). -/
  | resetReleased
  /-- SELECT_ASSERTED (R168). -/
  | selectAsserted
  /-- SELECT_RELEASED (R169): the time since the event before it, and the bits clocked in since the last event of the
  port, which complete no byte (log 13). -/
  | selectReleased (after : Nat) (bits : List Bool)
  /-- IDENTIFY (R177), code 01hex. -/
  | identify (params : List Byte)
  /-- RESTART (R179), code 02hex. -/
  | restart (params : List Byte)
  /-- SETUP (R118), code 03hex. -/
  | setup (params : List Byte)
  /-- ATTEND (R164), code 04hex. -/
  | attend (params : List Byte)
  /-- ADMIT (R61), code 10hex. -/
  | admitTrack (params : List Byte)
  /-- FIND (R68), code 11hex. -/
  | find (params : List Byte)
  /-- OWNER (R70), code 12hex. -/
  | owner (params : List Byte)
  /-- AMEND (R90), code 13hex. -/
  | amend (params : List Byte)
  /-- ATTACH (R86), code 14hex. -/
  | attach (params : List Byte)
  /-- DETACH (R88), code 15hex. -/
  | detach (params : List Byte)
  /-- RETIRE (R94), code 16hex. -/
  | retire (params : List Byte)
  /-- GUARD (R71), code 17hex. -/
  | guard (params : List Byte)
  /-- SURVEY (R157), code 18hex. -/
  | survey (params : List Byte)
  /-- PURGE (R72), code 19hex. -/
  | purge (params : List Byte)
  /-- LANE (R149), code 20hex. -/
  | lane (params : List Byte)
  /-- LANE_QUERY (R151), code 21hex. -/
  | laneQuery (params : List Byte)
  /-- REFERENCE (R30), code 28hex. -/
  | reference (params : List Byte)
  /-- REFERENCE_QUERY (R31), code 29hex. -/
  | referenceQuery (params : List Byte)
  /-- ALIGN (R29), code 2Ahex. -/
  | align (params : List Byte)
  /-- HOUSE_SWITCH_LINE (R17): the line count of the frame it ends, and the time since the event before it. -/
  | houseSwitchLine (lines after : Nat)
  /-- HOUSE_LOST (R17). -/
  | houseLost
  /-- REFERENCE_FRAME_START (R26): a frame start that the generator makes. -/
  | referenceFrameStart
  /-- REFERENCE_SAMPLE_INSTANT (R27): bit n − 1 of `early` says that console channel n is drawn before the ramp step. -/
  | referenceSampleInstant (early : BitVec 64)
  /-- RAMP_REACHES_TARGET (R122): the last step of the ramp of the track with this label. -/
  | rampReachesTarget (label : Nat)
  /-- CONSOLE_FRAME_TAKEN (R49): the bytes of the console frame. -/
  | consoleFrameTaken (bytes : List Byte)
  /-- LANE_SWITCH_LINE (R35): the lane, the line count of the frame it ends, and the time since the event before it. -/
  | laneSwitchLine (lane : Fin 8) (lines after : Nat)
  /-- LANE_FEED_LOST (R33). -/
  | laneFeedLost (lane : Fin 8)
  /-- PACKET_TAKEN (R38): the lane, the arriving line, and the bytes received since the marker search last resumed. -/
  | packetTaken (lane : Fin 8) (line : Nat) (bytes : List Byte)
  /-- PACKET_CUT_OFF (R39): as PACKET_TAKEN, the bytes ending with the line's blanking. -/
  | packetCutOff (lane : Fin 8) (line : Nat) (bytes : List Byte)
  /-- OUTGOING_FRAME_START (R135): the frame start that the lane's oldest handed switch line gives. -/
  | outgoingFrameStart (lane : Fin 8)
  /-- LINE_REACHED (R142): the lane, and what the line brings. -/
  | lineReached (lane : Fin 8) (line : LineReach)
  /-- FLAT_LINE_REACHED (R136): as LINE_REACHED, with no arriving line begun. -/
  | flatLineReached (lane : Fin 8) (line : LineReach)
  /-- PORT_BYTE_SHIFTED (R168): the bits clocked in on data in since the event before it, oldest first; eight of them,
  with those already standing, move one byte each way (log 13). -/
  | portByteShifted (bits : List Bool)
  /-- COUNT_FIELD_DAMAGED (R39): as PACKET_TAKEN, the bytes ending with the count field. -/
  | countFieldDamaged (lane : Fin 8) (line : Nat) (bytes : List Byte)
  deriving DecidableEq, Repr

end Sys2Proof
end

