-- ==== Sys2Proof/Machine/Bank.lean ====
section
/-! DEFINITION. A bank: a fixed number of like things (slots, lanes, groups, channels, window positions), as plain data. -/

namespace Sys2Proof.Machine

/-- `n` like things in order. The length stands in the type, so no bank of another length can be built. -/
structure Bank (α : Type) (n : Nat) where
  cells : List α
  size : cells.length = n
  deriving DecidableEq, Repr

/-- Every one of the `n` things is `x`. -/
def Bank.fill (n : Nat) (x : α) : Bank α n := ⟨List.replicate n x, List.length_replicate⟩

/-- The thing numbered `i`, from 0. -/
def Bank.get (b : Bank α n) (i : Fin n) : α := b.cells.get ⟨i.1, b.size.symm ▸ i.2⟩

/-- `x` in place of the thing numbered `i`. -/
def Bank.set (b : Bank α n) (i : Fin n) (x : α) : Bank α n :=
  ⟨b.cells.set i.1 x, (List.length_set ..).trans b.size⟩

/-- `f` of the thing numbered `i` in its place. -/
def Bank.modify (b : Bank α n) (i : Fin n) (f : α → α) : Bank α n := b.set i (f (b.get i))

/-- `f` of every thing. -/
def Bank.map (f : α → β) (b : Bank α n) : Bank β n := ⟨b.cells.map f, (List.length_map ..).trans b.size⟩

/-- The things numbered 0 to n − 1, each made from its number. -/
def Bank.ofFn (f : Fin n → α) : Bank α n := ⟨(List.finRange n).map f, by simp⟩

/-- Both banks' things, number by number. -/
def Bank.zip (a : Bank α n) (b : Bank β n) : Bank (α × β) n :=
  ⟨a.cells.zip b.cells, by rw [List.length_zip, a.size, b.size, Nat.min_self]⟩

/-- `x` before all others, the last thing gone: a ring takes its newest (03 R45). -/
def Bank.push (b : Bank α n) (x : α) : Bank α n :=
  ⟨(x :: b.cells).take n, by rw [List.length_take, List.length_cons, b.size]; omega⟩

end Sys2Proof.Machine
end

