-- ==== Sys2Proof/Config.lean ====
section
/-! DEFINITION. The numbers that the spec fixes for the part. It leaves no value of an instruction open, so no free value stands here. -/

namespace Sys2Proof.Config

/-- How many units of the model's clock make one period of the 48 kHz sample rate (DESIGN CHOICE, log 3). -/
def unitsPerSample : Nat := 1000000

/-- 100 ms, the time without a switch line after which a feed is lost (02 R17, 03 R33): 4800 sample periods. -/
def lossTime : Nat := 4800 * unitsPerSample

/-- The depth at which an entry is or becomes ACTIVE, and the lag it starts with (05 R77, 06 R102). -/
def startLag : Nat := 8

/-- The number of positions of a source window, and the highest lag and depth (03 R45, R46; 06 R100). -/
def windowSize : Nat := 16

/-- The most entries a destination list holds (04 R54). -/
def listLimit : Nat := 8

/-- The most parameter bytes a frame may announce (10 R171, R173). -/
def maxParams : Nat := 60

/-- The room for packets in the blanking of an outgoing carriage line, in bytes (08 R142). -/
def blankingRoom : Nat := 216

/-- The identity data (10 R177): part code 8C56hex, revision 1, 8 lanes, 64 sets, 4 ways, 64 console channels. -/
def identity : List Byte := [0x8C, 0x56, 1, 8, 64, 4, 64]

end Sys2Proof.Config
end

