-- ==== Sys2Proof/Machine/Cadence.lean ====
section
/-! DEFINITION. Picture formats, cadence phases, share plans and the classing of frames (spec 01). -/

namespace Sys2Proof.Machine

/-- The six recognised formats (R1). "No recognised format", code 0, is `none` of `Option Format`. -/
inductive Format where
  | p1 | p2 | p3 | p4 | p5 | p6
  deriving DecidableEq, Repr

/-- The formats in the order of their codes. -/
def Format.all : List Format := [.p1, .p2, .p3, .p4, .p5, .p6]

/-- The total lines of a frame (R1). -/
def Format.lines : Format → Nat
  | .p1 | .p2 | .p3 | .p4 => 1125
  | .p5 | .p6 => 750

/-- The cadence numerator C (R1). -/
def Format.numerator : Format → Nat
  | .p1 => 1920
  | .p2 => 8008
  | .p3 | .p5 => 960
  | .p4 | .p6 => 4004

/-- The cadence length Q (R1). -/
def Format.cadence : Format → Nat
  | .p1 | .p3 | .p5 => 1
  | .p2 | .p4 | .p6 => 5

/-- The carriage line count M: the total lines less 2 (R1). -/
def Format.carriage (f : Format) : Nat := f.lines - 2

/-- The nominal frame period C / Q, in units of the clock (R1; the division is exact). -/
def Format.nominal (f : Format) : Nat := f.numerator * Config.unitsPerSample / f.cadence

/-- S(p), the samples per channel of a complete frame of phase p (R4). -/
def Format.samples (f : Format) (p : Nat) : Nat :=
  (p + 1) * f.numerator / f.cadence - p * f.numerator / f.cadence

/-- The successor rule of phases (R5). -/
def Format.successor (f : Format) (p : Nat) : Nat := (p + 1) % f.cadence

/-- Whether a period lies within 500 parts per million of the nominal one, ends included (R2; log 4). -/
def Format.inTolerance (f : Format) (period : Nat) : Bool :=
  f.nominal * (1000000 - 500) ≤ period * 1000000 && period * 1000000 ≤ f.nominal * (1000000 + 500)

/-- The class of a complete frame: the format it matches, or none when it is unrecognised (R2). -/
def classify (lines period : Nat) : Option Format :=
  Format.all.find? fun f => f.lines = lines && f.inTolerance period

/-- The share plan of an outgoing frame: its sample count S and its carriage line count M (R10). -/
structure Plan where
  samples : Nat
  carriage : Nat
  deriving DecidableEq, Repr

/-- The plan that a format and a phase fix at a frame start (R10). -/
def Plan.of (f : Format) (phase : Nat) : Plan := ⟨f.samples phase, f.carriage⟩

/-- The samples per channel drawn on the first `j` carriage lines together (R6, R11). -/
def Plan.cumulative (plan : Plan) (j : Nat) : Nat := j * plan.samples / plan.carriage

/-- The share of carriage line `j`; a line beyond the plan has none (R6, R12). -/
def Plan.share (plan : Plan) (j : Nat) : Nat :=
  if j < plan.carriage then plan.cumulative (j + 1) - plan.cumulative j else 0

end Sys2Proof.Machine
end

