-- ==== Sys2Proof/Machine/State.lean ====
section
/-! DEFINITION. The state of the part: every register, window, record, count and mode that the spec gives it, as plain data, and its values when the reset line is released. -/

namespace Sys2Proof.Machine

/-! ### Sources, destinations, tracks (spec 04 and 05) -/

/-- Where a track's sound comes from (R75). Groups and channels are numbered from 0 here, from 1 in the spec. -/
inductive Source where
  | none
  | lane (l : Fin 8) (g c : Fin 4)
  | console (n : Fin 64)
  deriving DecidableEq, Repr

/-- A place a track's sound goes (R54). -/
inductive Dest where
  | lane (l : Fin 8) (g c : Fin 4)
  | console (n : Fin 64)
  deriving DecidableEq, Repr

/-- The manner a LEAVING entry left from (R76). -/
inductive Manner where
  | filling | active
  deriving DecidableEq, Repr

/-- The phase of a destination entry; LEAVING keeps its manner as part of it (R76). -/
inductive Phase where
  | joining | filling | active
  | leaving (manner : Manner)
  deriving DecidableEq, Repr

/-- A destination entry (R54). -/
structure Entry where
  dest : Dest
  phase : Phase
  taken : Bool
  lag : Nat
  last : Sample
  deriving DecidableEq, Repr

/-- The rounding modes that round (R115). -/
inductive Rounding where
  | nearestEven | floor | towardZero
  deriving DecidableEq, Repr

/-- A ramp of gain now (R115). -/
structure Ramp where
  start : Nat
  target : Nat
  length : Nat
  elapsed : Nat
  deriving DecidableEq, Repr

/-- A track record (R53). `rounding` is `none` for the mode DEVICE; `retiring` is the state RETIRING. -/
structure Track where
  label : Nat
  retiring : Bool
  guarded : Bool
  setGain : Nat
  muted : Bool
  inverted : Bool
  rounding : Option Rounding
  source : Source
  pendingSource : Option Source
  sourceLost : Bool
  gainNow : Nat
  ramp : Option Ramp
  slipped : Bool
  clipped : Bool
  entries : List Entry
  deriving DecidableEq, Repr

/-- The track table: the slots, the destination map and the two counts (R52). -/
structure Table where
  slots : Bank (Option Track) 256
  map : Bank (Option Nat) 192
  occupancy : Nat
  staged : Nat
  deriving DecidableEq, Repr

/-! ### Receivers (spec 03) -/

/-- A source window: position 1 is the most recent arrival (R45). -/
abbrev Window := Bank Sample 16

/-- One group of a lane receiver (R32), with the marks of the frame in progress that R40 and R42 class it by. -/
structure GroupRx where
  present : Bool
  hysteresis : Nat
  depth : Nat
  windows : Bank Window 4
  validSeen : Bool
  damagedSeen : Bool
  deriving DecidableEq, Repr

/-- The receive states of a lane (spec 03 section 3.1). -/
inductive RxState where
  | noSignal | seeking | locked
  deriving DecidableEq, Repr

/-- A lane receiver (R32). The time since the last switch line is the clock less `lastLine`. -/
structure LaneRx where
  state : RxState
  format : Option Format
  candidate : Option Format
  count : Nat
  arrivingPhase : Option Nat
  lastLine : Nat
  groups : Bank GroupRx 4
  deriving DecidableEq, Repr

/-- The console link receiver (R49). -/
structure ConsoleRx where
  up : Bool
  count : Nat
  depth : Nat
  windows : Bank Window 64
  deriving DecidableEq, Repr

/-! ### The reference unit (spec 02) -/

/-- The reference unit's selected source (spec 02 section 2.1). -/
inductive RefSource where
  | house
  | lane (l : Fin 8)
  | free
  deriving DecidableEq, Repr

/-- The reference states (spec 02 section 2.1). -/
inductive RefState where
  | free | locked | holdover
  deriving DecidableEq, Repr

/-- The reference unit (R16), and the timing of its frame in progress (R20, R21, R27). -/
structure RefUnit where
  source : RefSource
  state : RefState
  format : Format
  phase : Nat
  align : Bool
  freeRun : Format
  holdover : Nat
  candidate : Option Format
  count : Nat
  present : Bool
  /-- The clock at the source's last switch line, or from when its time is counted (R16). -/
  lastLine : Nat
  /-- Whether the frame open on the source counts for the unit (R19). -/
  counted : Bool
  /-- The period of the last frame classed as the locked format (R20, R21, R24, R25, R27). -/
  lockedPeriod : Nat
  /-- The clock at the start of the reference frame in progress. -/
  frameStart : Nat
  /-- After what time from its start the generator ends the frame in progress (R20, R21). -/
  frameLength : Nat
  /-- The frame period by whose Q / C the instants of the frame in progress are spaced (R27): while FREE runs the frame in
  which it began to its end, the period then in force (R20). -/
  pace : Nat
  /-- The reference sample instants emitted in the frame in progress (R27). -/
  emitted : Nat
  /-- Whether the instant last emitted still has its console frame and its ramp steps to come, a line of a FALLBACK frame
  having been reached first at it (R123, R139; log 10). -/
  owed : Bool
  deriving DecidableEq, Repr

/-! ### Gain stage and transmitters (spec 07 and 08) -/

/-- The device settings (R117). -/
structure GainStage where
  rampLength : Nat
  rounding : Rounding
  deriving DecidableEq, Repr

/-- The dispositions of a group (spec 08 section 8.1). -/
inductive Disposition where
  | pass | embed | strip
  deriving DecidableEq, Repr

/-- The word lengths (spec 08 section 8.1). -/
inductive WordLength where
  | w20 | w24
  deriving DecidableEq, Repr

/-- The setting of one group (R134). -/
structure GroupSetting where
  disposition : Disposition
  word : WordLength
  deriving DecidableEq, Repr

/-- A full lane setting: one of each per group (R134). -/
abbrev LaneSetting := Bank GroupSetting 4

/-- A valid packet taken from an arriving line, as it is passed on (R143). -/
structure TakenPacket where
  line : Nat
  group : Fin 4
  bytes : List Byte
  deriving DecidableEq, Repr

/-- A handed switch line whose outgoing frame start has not yet fallen (R135), with the format handed (none where the
receiver left LOCKED at it, R140) and the valid packets taken since (log 9). -/
structure Handed where
  format : Option Format
  packets : List TakenPacket
  deriving DecidableEq, Repr

/-- A packet of an EMBED group on a line reached whose draws are not yet all made: the word length and the number of
sample sets it was begun with, and the draws made so far, each with its channel, in order (R133, R144; log 20). -/
structure OpenPacket where
  group : Fin 4
  word : WordLength
  sets : Nat
  drawn : List (Fin 4 × Int)
  deriving DecidableEq, Repr

/-- A line reached whose draws are not yet all made: its packets to build, in group order, and the packets it passes
(R142; log 20). -/
structure OpenLine where
  packets : List OpenPacket
  passed : List (List Byte)
  deriving DecidableEq, Repr

/-- The timing modes (spec 08 section 8.1). -/
inductive TxMode where
  | follow | fallback
  deriving DecidableEq, Repr

/-- A lane transmitter (R134), its three-line delay (R135, log 9), the line it is drawing (log 20) and what its output
carries on the line last drawn whole. -/
structure LaneTx where
  mode : TxMode
  format : Format
  phase : Nat
  plan : Plan
  lines : Nat
  groups : LaneSetting
  staged : Option LaneSetting
  handed : List Handed
  passing : Bool
  store : List TakenPacket
  line : Option OpenLine
  blanking : List Byte
  flat : Bool
  deriving DecidableEq, Repr

/-! ### Attention unit and control port (spec 09 and 10) -/

/-- The kinds of occurrence that selector A can choose (R160). -/
inductive Occurrence where
  | sourceLost | laneChange | referenceChange | switchesDone | slip
  deriving DecidableEq, Repr

/-- Selector B (R162). -/
inductive SelectorB where
  | none | rising | falling
  deriving DecidableEq, Repr

/-- The attention unit (R159). Selector A is `none` for the code 0. -/
structure Attention where
  selectorA : Option Occurrence
  selectorB : SelectorB
  threshold : Nat
  requestA : Bool
  requestB : Bool
  deriving DecidableEq, Repr

/-- The result codes (R174). -/
inductive Result where
  | done | unknownCommand | truncated | badField | noSuchTrack | duplicate | setFull | occupied | listFull
  | notEmbedding | groupInUse | pending | retiring | guarded | notAttached
  deriving DecidableEq, Repr

/-- A reply: echoed code, result, data (R174). -/
structure Reply where
  code : Byte
  result : Result
  data : List Byte
  deriving DecidableEq, Repr

/-- The control port (R167). `opened` says whether a transaction is in progress; the frame in progress is `frame`, its
frame bytes, and `bits`, those of the byte not yet complete, oldest first. -/
structure Port where
  held : Reply
  opened : Bool
  outgoing : List Byte
  shifted : Nat
  frame : List Byte
  bits : List Bool
  dataOut : Option Byte
  deriving DecidableEq, Repr

/-! ### The whole part -/

/-- The state of the part. `pending` is the queue of commands that wait, first in, first out. -/
structure State where
  pending : List Instr
  resetHeld : Bool
  now : Nat
  ref : RefUnit
  rx : Bank LaneRx 8
  console : ConsoleRx
  table : Table
  gain : GainStage
  tx : Bank LaneTx 8
  consoleOut : List Byte
  attn : Attention
  port : Port
  deriving DecidableEq, Repr

/-- Why a command ends in a fault: never. The spec gives the part no fault and no trap (a refused command answers with a
result code, R174), so no arm raises one and the type has no constructor. -/
inductive Fault where
  deriving DecidableEq, Repr

/-- Why a command is refused by the model. -/
inductive Refusal where
  /-- The command has no meaning yet; raised by an arm of `exec` only (safe). No arm of this model raises it. -/
  | notModelled (mnemonic : String)
  deriving DecidableEq, Repr

/-! ### Values at the release of the reset line -/

/-- The reference unit at the release (R16). `lockedPeriod`: DESIGN CHOICE, log 15. -/
def RefUnit.reset : RefUnit where
  source := .house
  state := .holdover
  format := .p1
  phase := 0
  align := false
  freeRun := .p1
  holdover := Format.p1.nominal
  candidate := none
  count := 0
  present := true
  lastLine := 0
  counted := false
  lockedPeriod := Format.p1.nominal
  frameStart := 0
  frameLength := Format.p1.nominal
  pace := Format.p1.nominal
  emitted := 0
  owed := false

/-- A window at the release: every position holds 0 (R32, R49). -/
def Window.reset : Window := Bank.fill 16 0

/-- A lane group at the release (R32). -/
def GroupRx.reset : GroupRx where
  present := false
  hysteresis := 0
  depth := 0
  windows := Bank.fill 4 Window.reset
  validSeen := false
  damagedSeen := false

/-- A lane receiver at the release (R32). -/
def LaneRx.reset : LaneRx where
  state := .noSignal
  format := none
  candidate := none
  count := 0
  arrivingPhase := none
  lastLine := 0
  groups := Bank.fill 4 GroupRx.reset

/-- The console link receiver at the release (R49). -/
def ConsoleRx.reset : ConsoleRx where
  up := false
  count := 0
  depth := 0
  windows := Bank.fill 64 Window.reset

/-- The track table at the release (R52). -/
def Table.reset : Table where
  slots := Bank.fill 256 none
  map := Bank.fill 192 none
  occupancy := 0
  staged := 0

/-- The gain stage at the release and after RESTART (R117). -/
def GainStage.reset : GainStage := ⟨480, .nearestEven⟩

/-- Every group PASS with word length 24 (R134, R153). -/
def LaneSetting.reset : LaneSetting := Bank.fill 4 ⟨.pass, .w24⟩

/-- A lane transmitter at the release (R134); its first frame has the plan of P1, phase 0. -/
def LaneTx.reset : LaneTx where
  mode := .fallback
  format := .p1
  phase := 0
  plan := Plan.of .p1 0
  lines := 0
  groups := LaneSetting.reset
  staged := none
  handed := []
  passing := false
  store := []
  line := none
  blanking := []
  flat := true

/-- The attention unit at the release and after RESTART (R159). -/
def Attention.reset : Attention := ⟨none, .none, 256, true, false⟩

/-- The identity reply under an echoed code (R177). -/
def Reply.identity (code : Byte) : Reply := ⟨code, .done, Config.identity⟩

/-- The control port at the release: the identity reply with echoed code 00hex, no transaction taken (R167). -/
def Port.reset : Port where
  held := Reply.identity 0
  opened := false
  outgoing := []
  shifted := 0
  frame := []
  bits := []
  dataOut := none

/-- The part when the reset line is released (R180): every block at its power-on values, nothing waiting. -/
def State.reset : State where
  pending := []
  resetHeld := false
  now := 0
  ref := RefUnit.reset
  rx := Bank.fill 8 LaneRx.reset
  console := ConsoleRx.reset
  table := Table.reset
  gain := GainStage.reset
  tx := Bank.fill 8 LaneTx.reset
  consoleOut := []
  attn := Attention.reset
  port := Port.reset

end Sys2Proof.Machine
end

