-- ==== Sys2Proof/Machine/Gain.lean ====
section
/-! DEFINITION. The gain stage: target gain, ramps, and the shaping of a drawn sample (spec 07). -/

namespace Sys2Proof.Machine

/-- The target gain: 0 when muted or source lost, the set gain otherwise (R116). -/
def Track.target (t : Track) : Nat := if t.muted || t.sourceLost then 0 else t.setGain

/-- The gain fields after an event other than a loss, with `R` the device ramp length: `t` is the record as the event
leaves it, gain now and ramp still as they stood; `before` is the target before the event (R119). -/
def Track.retarget (t : Track) (before R : Nat) : Track :=
  if t.target = before then t
  else if t.target = t.gainNow then { t with ramp := none }
  else if R = 0 then { t with gainNow := t.target, ramp := none }
  else { t with ramp := some ⟨t.gainNow, t.target, R, 0⟩ }

/-- The cut of a lost source: gain now 0 and no ramp (R108, R120). -/
def Track.cut (t : Track) : Track := { t with sourceLost := true, gainNow := 0, ramp := none }

/-- The gain fields of `t` after an event that found the record as `old`: a source newly lost cuts (R82, R120), any
other change of target follows R119. -/
def Track.regain (old t : Track) (R : Nat) : Track :=
  if t.sourceLost && !old.sourceLost then t.cut else t.retarget old.target R

/-- G(k) of a ramp (R122). -/
def Ramp.gainAt (r : Ramp) (k : Nat) : Nat :=
  ((r.start : Int) + (((r.target : Int) - r.start) * k).tdiv r.length).toNat

/-- One step of a track's ramp; at k = R the ramp is removed with gain now at the target (R122). -/
def Track.stepRamp (t : Track) : Track :=
  match t.ramp with
  | none => t
  | some r =>
    if r.length ≤ r.elapsed + 1 then { t with gainNow := r.target, ramp := none }
    else { t with gainNow := r.gainAt (r.elapsed + 1), ramp := some { r with elapsed := r.elapsed + 1 } }

/-- Whether the next step of the track's ramp is its last (R122). -/
def Track.lastStepDue (t : Track) : Bool := t.ramp.any fun r => r.length = r.elapsed + 1

/-! ### Shaping (section 7.6) -/

/-- The word length W as a number. -/
def WordLength.bits : WordLength → Nat
  | .w20 => 20
  | .w24 => 24

/-- Inversion, limited at the one value whose negation lies outside the range (R128). -/
def invertSample (inverted : Bool) (x : Sample) : Int :=
  if inverted then (if x.toInt = -8388608 then 8388607 else -x.toInt) else x.toInt

/-- The divisor D, 2 to the power 14 + 24 − W (R129). -/
def WordLength.divisor (w : WordLength) : Int := 2 ^ (38 - w.bits)

/-- The quotient of P by a positive D, rounded by a mode (R130). -/
def Rounding.divide (mode : Rounding) (p d : Int) : Int :=
  match mode with
  | .floor => p / d
  | .towardZero => p.tdiv d
  | .nearestEven =>
    if 2 * (p % d) < d then p / d
    else if d < 2 * (p % d) then p / d + 1
    else if p / d % 2 = 0 then p / d else p / d + 1

/-- The lowest and the highest sample of a word length (R131). -/
def WordLength.lowest (w : WordLength) : Int := -(2 ^ (w.bits - 1))
def WordLength.highest (w : WordLength) : Int := 2 ^ (w.bits - 1) - 1

/-- A value limited to the range of the word length (R131). -/
def WordLength.limit (w : WordLength) (v : Int) : Int := max w.lowest (min v w.highest)

/-- The rounded value before limiting: inverted, multiplied by the gain, scaled, rounded (R128 to R130). -/
def scaleSample (inverted : Bool) (gain : Nat) (mode : Rounding) (w : WordLength) (x : Sample) : Int :=
  mode.divide (invertSample inverted x * gain) w.divisor

/-- The rounding mode of a draw: the track's own, or the device default as it stands at the draw (R130). -/
def Track.mode (t : Track) (device : Rounding) : Rounding := t.rounding.getD device

/-- The value handed to the transmitter (R128 to R131). -/
def Track.shape (t : Track) (device : Rounding) (w : WordLength) (x : Sample) : Int :=
  w.limit (scaleSample t.inverted t.gainNow (t.mode device) w x)

/-- Whether limiting changes the value (R131). -/
def Track.clips (t : Track) (device : Rounding) (w : WordLength) (x : Sample) : Bool :=
  t.shape device w x != scaleSample t.inverted t.gainNow (t.mode device) w x

end Sys2Proof.Machine
end

