-- ==== Sys2Proof/Machine/Bindings.lean ====
section
/-! DEFINITION. What one track record and its destination entries do at each event: starts, switch points, source changes, arrivals, draws, losses and returns (spec 05 and 06). -/

namespace Sys2Proof.Machine

/-- How the sources stand: the depth of each that is present, `none` for one that is not (R46, R47). NONE has no depth. -/
abbrev SourceView := Source → Option Nat

/-- Whether a source is a lane or console source that is not present (R61, R82). -/
def SourceView.absent (view : SourceView) (src : Source) : Bool := src != .none && (view src).isNone

/-! ### Entries -/

/-- The effective source of an entry (R75). -/
def Track.effective (t : Track) (e : Entry) : Source :=
  if e.taken then t.pendingSource.getD t.source else t.source

/-- The manner in which an entry draws: ACTIVE, FILLING, or none for JOINING (R76). -/
def Phase.manner : Phase → Option Manner
  | .joining => none
  | .filling => some .filling
  | .active => some .active
  | .leaving m => some m

/-- The phase, or the manner of a LEAVING entry, becomes `m` (R76, R77). -/
def Phase.withManner (p : Phase) (m : Manner) : Phase :=
  match p, m with
  | .leaving _, m => .leaving m
  | _, .filling => .filling
  | _, .active => .active

def Phase.isJoining (p : Phase) : Bool := p = .joining
def Phase.isLeaving : Phase → Bool
  | .leaving _ => true
  | _ => false

/-- Whether an entry keeps lag: ACTIVE or LEAVING from ACTIVE, with an effective source other than NONE (R100). -/
def Track.keepsLag (t : Track) (e : Entry) : Bool := e.phase.manner = some .active && t.effective e != .none

/-- The manner and the lag of an entry that starts on a source (R77). -/
def SourceView.startOn (view : SourceView) (src : Source) : Manner × Nat :=
  if src = .none then (.active, 0)
  else match view src with
    | none => (.filling, 0)
    | some depth => if Config.startLag ≤ depth then (.active, Config.startLag) else (.filling, 0)

/-- An entry starts on a source; its last value and marker are not touched (R77). -/
def Entry.start (e : Entry) (view : SourceView) (src : Source) : Entry :=
  { e with phase := e.phase.withManner (view.startOn src).1, lag := (view.startOn src).2 }

/-- A new entry (R62, R86). -/
def Entry.new (d : Dest) (taken : Bool) : Entry := ⟨d, .joining, taken, 0, 0⟩

/-- The track's entry for a destination. -/
def Track.entryFor (t : Track) (d : Dest) : Option Entry := t.entries.find? fun e => e.dest = d

/-- `f` of the track's entry for a destination; a list holds no two for one (R54). -/
def Track.modifyEntry (t : Track) (d : Dest) (f : Entry → Entry) : Track :=
  { t with entries := t.entries.map fun e => if e.dest = d then f e else e }

/-- The track without its entry for a destination, the entries behind it closing up (R54). -/
def Track.dropEntry (t : Track) (d : Dest) : Track :=
  { t with entries := t.entries.filter fun e => e.dest ≠ d }

/-- The staged items that belong to the track (R66). -/
def Track.stagedItems (t : Track) : Nat :=
  t.pendingSource.isSome.toNat + t.entries.countP fun e => e.phase.isJoining || e.phase.isLeaving

/-! ### Source changes (R82, R91) -/

/-- Whether the track holds a pending source and none of its entries is still not taken (R82). -/
def Track.changeComplete (t : Track) : Bool := t.pendingSource.isSome && t.entries.all (·.taken)

/-- The completion examination of R82, steps 1 to 3; the gain fields follow by `Track.regain`. -/
def Track.completeChange (t : Track) (view : SourceView) : Track :=
  match t.pendingSource with
  | none => t
  | some src =>
    if t.entries.all (·.taken) then
      { t with source := src, pendingSource := none, sourceLost := view.absent src,
               entries := t.entries.map fun e => { e with taken := false } }
    else t

/-- A source change is staged: JOINING entries taken, all others not taken (R91). -/
def Track.stageSource (t : Track) (src : Source) : Track :=
  { t with pendingSource := some src, entries := t.entries.map fun e => { e with taken := e.phase.isJoining } }

/-! ### Switch points (R81) -/

/-- An entry at its switch point; `none` when it is removed (R81). -/
def Track.entryAtSwitchPoint (t : Track) (view : SourceView) (e : Entry) : Option Entry :=
  match e.phase with
  | .joining => some (e.start view (t.effective e))
  | .leaving _ => none
  | _ =>
    match t.pendingSource with
    | none => some e
    | some src => if e.taken then some e else some ({ e with taken := true }.start view src)

/-- The track's entries handled at a switch point of the destinations concerned, before the examinations (R81). -/
def Track.landEntries (t : Track) (view : SourceView) (concerned : Dest → Bool) : Track :=
  { t with entries := t.entries.filterMap fun e => if concerned e.dest then t.entryAtSwitchPoint view e else some e }

/-- A track at a switch point of the destinations concerned: its entries are handled, R82 is examined, and a RETIRING
record whose list this has emptied is freed (R81, R82, R95). -/
def Track.atSwitchPoint (t : Track) (view : SourceView) (R : Nat) (concerned : Dest → Bool) : Option Track :=
  if t.entries.any (fun e => concerned e.dest) then
    let landed := Track.regain t ((t.landEntries view concerned).completeChange view) R
    if landed.retiring && landed.entries.isEmpty then none else some landed
  else some t

/-- The destinations that the track leaves at that switch point (R81). -/
def Track.leftAt (t : Track) (concerned : Dest → Bool) : List Dest :=
  (t.entries.filter fun e => concerned e.dest && e.phase.isLeaving).map (·.dest)

/-! ### Arrivals (R101, R102) -/

/-- An arrival reaches an entry whose effective source it is; `depth` is the source's depth as the arrival left it. -/
def Track.entryArrival (t : Track) (depth : Nat) (e : Entry) : Entry :=
  if t.keepsLag e then { e with lag := min (e.lag + 1) Config.windowSize }
  else if e.phase.manner = some .filling && depth = Config.startLag then
    { e with phase := e.phase.withManner .active, lag := Config.startLag }
  else e

/-- Whether an arrival into a source slip-drops one of the track's entries (R101). -/
def Track.slipsOnArrival (t : Track) (into : Source → Bool) : Bool :=
  t.entries.any fun e => into (t.effective e) && t.keepsLag e && Config.windowSize ≤ e.lag

/-- An arrival into the sources `into` reaches the track's entries (R101, R102, R106). -/
def Track.arrive (t : Track) (into : Source → Bool) (depth : Nat) : Track :=
  { t with
    slipped := t.slipped || t.slipsOnArrival into
    entries := t.entries.map fun e => if into (t.effective e) then t.entryArrival depth e else e }

/-! ### Draws (R103 to R105) -/

/-- The sample that a draw yields, before the gain stage (R103, R104, R105); `window` is the entry's source window. -/
def Track.drawn (t : Track) (window : Nat → Sample) (e : Entry) : Sample :=
  if t.keepsLag e then (if e.lag = 0 then e.last else window e.lag) else 0

/-- The entry after a draw (R103, R104, R105). -/
def Track.entryDrawn (t : Track) (window : Nat → Sample) (e : Entry) : Entry :=
  if t.keepsLag e && e.lag ≠ 0 then { e with last := window e.lag, lag := e.lag - 1 } else e

/-- Whether a draw slip-repeats (R104). -/
def Track.slipsOnDraw (t : Track) (e : Entry) : Bool := t.keepsLag e && e.lag = 0

/-! ### Loss and return (R108 to R110) -/

/-- An entry at the loss of its effective source (R109). -/
def Entry.lose (e : Entry) : Entry :=
  match e.phase with
  | .joining => e
  | .leaving .filling => e
  | p => { e with phase := p.withManner .filling, lag := 0 }

/-- The sources `gone` go from present to not present (R108, R109). -/
def Track.lose (t : Track) (gone : Source → Bool) : Track :=
  let moved := { t with entries := t.entries.map fun e => if gone (t.effective e) then e.lose else e }
  if gone t.source then moved.cut else moved

/-- The sources `back` go from not present to present (R110, R121); `view` shows them as they then stand. -/
def Track.comeBack (t : Track) (view : SourceView) (R : Nat) (back : Source → Bool) : Track :=
  let restart (e : Entry) : Entry :=
    if back (t.effective e) && !e.phase.isJoining then e.start view (t.effective e) else e
  let moved := { t with entries := t.entries.map restart }
  if back t.source then Track.regain t { moved with sourceLost := false } R else moved

end Sys2Proof.Machine
end

