-- ==== Sys2Proof/Machine/Flags.lean ====
section
/-! DEFINITION. The attention unit: how occurrences and occupancy changes set the two requests, and the attention line (spec 09 section 9.2). -/

namespace Sys2Proof.Machine

/-- An occurrence is reported: one of the kind that selector A names sets request A (R161). -/
def Attention.report (a : Attention) (o : Occurrence) : Attention :=
  if a.selectorA = some o then { a with requestA := true } else a

/-- As `report`, when the condition holds. -/
def Attention.reportIf (a : Attention) (condition : Bool) (o : Occurrence) : Attention :=
  if condition then a.report o else a

/-- Whether a change of the occupancy crosses T in the direction of selector B (R162). -/
def Attention.crosses (a : Attention) (before after : Nat) : Bool :=
  match a.selectorB with
  | .none => false
  | .rising => before ≤ a.threshold && a.threshold < after
  | .falling => a.threshold < before && after ≤ a.threshold

/-- A change of the occupancy is reported (R65, R162). -/
def Attention.reportOccupancy (a : Attention) (before after : Nat) : Attention :=
  if a.crosses before after then { a with requestB := true } else a

/-- The attention line: asserted exactly when request A or request B is set (R163). -/
def State.attentionLine (s : State) : Bool := s.attn.requestA || s.attn.requestB

/-- An occurrence is reported to the attention unit, when the condition holds (R160, R161). -/
def State.reportIf (s : State) (condition : Bool) (o : Occurrence) : State :=
  { s with attn := s.attn.reportIf condition o }

end Sys2Proof.Machine
end

