-- ==== Sys2Proof/Machine/Operands.lean ====
section
/-! DEFINITION. The byte layouts of the control port: field codes, the parameters of each command (field-range step, with the clamps), and their encoders (spec 12 and 10). -/

namespace Sys2Proof.Machine

/-! ### Numbers and samples as bytes (R181) -/

/-- The byte of a number. -/
def byteOf (n : Nat) : Byte := BitVec.ofNat 8 n

/-- A number of two bytes, most significant first (R181). -/
def bytes16 (n : Nat) : List Byte := [byteOf (n / 256), byteOf n]

/-- The number that two bytes hold (R181). -/
def nat16 (hi lo : Byte) : Nat := hi.toNat * 256 + lo.toNat

/-- The sample that three bytes hold (R181). -/
def sampleOf (b1 b2 b3 : Byte) : Sample := b1 ++ b2 ++ b3

/-- A sample as three bytes, most significant first (R181). -/
def sampleBytes (x : Sample) : List Byte := [x.extractLsb' 16 8, x.extractLsb' 8 8, x.extractLsb' 0 8]

/-- A yes/no field as it is sent (R181). -/
def boolByte (b : Bool) : Byte := if b then 1 else 0

/-- A yes/no field of a command; any value but 0 and 1 is out of range (R181). -/
def readBool (b : Byte) : Option Bool :=
  if b = 0 then some false else if b = 1 then some true else none

/-- A number of a range that starts at 0 (lanes). -/
def readIndex (n : Nat) (b : Byte) : Option (Fin n) :=
  if h : b.toNat < n then some ⟨b.toNat, h⟩ else none

/-- A number of a range that starts at 1 (groups, channels, console channels). -/
def readNumber (n : Nat) (b : Byte) : Option (Fin n) :=
  if h : 1 ≤ b.toNat ∧ b.toNat ≤ n then some ⟨b.toNat - 1, by omega⟩ else none

/-- A number of a range that starts at 1, as it is sent. -/
def numberByte (i : Fin n) : Byte := byteOf (i.1 + 1)

/-! ### Codes (R174, R181) -/

/-- The code of a result (R174). -/
def Result.code : Result → Byte
  | .done => 0x00
  | .unknownCommand => 0x01
  | .truncated => 0x02
  | .badField => 0x03
  | .noSuchTrack => 0x04
  | .duplicate => 0x05
  | .setFull => 0x06
  | .occupied => 0x07
  | .listFull => 0x08
  | .notEmbedding => 0x09
  | .groupInUse => 0x0A
  | .pending => 0x0B
  | .retiring => 0x0C
  | .guarded => 0x0D
  | .notAttached => 0x0E

/-- The commands of the control port (spec 10 section 10.5). -/
inductive Command where
  | identify | restart | setup | attend | admitTrack | find | owner | amend | attach | detach | retire | guard | survey
  | purge | lane | laneQuery | reference | referenceQuery | align
  deriving DecidableEq, Repr

/-- The commands in the order of their codes. -/
def Command.all : List Command :=
  [.identify, .restart, .setup, .attend, .admitTrack, .find, .owner, .amend, .attach, .detach, .retire, .guard, .survey,
   .purge, .lane, .laneQuery, .reference, .referenceQuery, .align]

/-- The code of a command (spec 10 section 10.5). -/
def Command.code : Command → Byte
  | .identify => 0x01
  | .restart => 0x02
  | .setup => 0x03
  | .attend => 0x04
  | .admitTrack => 0x10
  | .find => 0x11
  | .owner => 0x12
  | .amend => 0x13
  | .attach => 0x14
  | .detach => 0x15
  | .retire => 0x16
  | .guard => 0x17
  | .survey => 0x18
  | .purge => 0x19
  | .lane => 0x20
  | .laneQuery => 0x21
  | .reference => 0x28
  | .referenceQuery => 0x29
  | .align => 0x2A

/-- The command that a code names, if any (R171). -/
def Command.ofCode (b : Byte) : Option Command := Command.all.find? fun c => c.code = b

/-- A reply as its bytes: 3 + m of them (R168, R174). -/
def Reply.bytes (r : Reply) : List Byte := r.code :: r.result.code :: byteOf r.data.length :: r.data

/-- The code of a format (R1). -/
def Format.code : Format → Byte
  | .p1 => 1
  | .p2 => 2
  | .p3 => 3
  | .p4 => 4
  | .p5 => 5
  | .p6 => 6

/-- The code of a format, 0 for none (R15). -/
def formatByte (f : Option Format) : Byte := f.elim 0 Format.code

/-- A format of a command: codes 1 to 6 (R1, R15). -/
def readFormat (b : Byte) : Option Format := Format.all.find? fun f => f.code = b

/-- The code of a rounding mode; DEVICE is 3 (R115). -/
def roundingByte : Option Rounding → Byte
  | some .nearestEven => 0
  | some .floor => 1
  | some .towardZero => 2
  | none => 3

/-- The device default rounding mode of SETUP: codes 0 to 2 (R118). -/
def readDefaultRounding (b : Byte) : Option Rounding :=
  if b = 0 then some .nearestEven else if b = 1 then some .floor else if b = 2 then some .towardZero else none

/-- A track's rounding mode: codes 0 to 3 (R115). -/
def readRounding (b : Byte) : Option (Option Rounding) :=
  if b = 3 then some none else (readDefaultRounding b).map some

/-- The code of a disposition (spec 08 section 8.1). -/
def Disposition.code : Disposition → Byte
  | .pass => 0
  | .embed => 1
  | .strip => 2

/-- A disposition of LANE: codes 0 to 2 (R147). -/
def readDisposition (b : Byte) : Option Disposition :=
  if b = 0 then some .pass else if b = 1 then some .embed else if b = 2 then some .strip else none

/-- A word length as it is sent: 20 or 24 (R181). -/
def WordLength.code : WordLength → Byte
  | .w20 => 20
  | .w24 => 24

/-- A word length of LANE: 20 or 24 (R147). -/
def readWordLength (b : Byte) : Option WordLength :=
  if b = 20 then some .w20 else if b = 24 then some .w24 else none

/-- The code of an entry's phase (R181). -/
def Phase.code : Phase → Byte
  | .joining => 0
  | .filling => 1
  | .active => 2
  | .leaving .active => 3
  | .leaving .filling => 4

/-- The code of selector A (R160). -/
def selectorAByte : Option Occurrence → Byte
  | none => 0
  | some .sourceLost => 1
  | some .laneChange => 2
  | some .referenceChange => 3
  | some .switchesDone => 4
  | some .slip => 5

/-- Selector A of SETUP: codes 0 to 5 (R160). -/
def readSelectorA (b : Byte) : Option (Option Occurrence) :=
  [none, some .sourceLost, some .laneChange, some .referenceChange, some .switchesDone, some .slip].find?
    fun o => selectorAByte o = b

/-- The code of selector B (R162). -/
def SelectorB.code : SelectorB → Byte
  | .none => 0
  | .rising => 1
  | .falling => 2

/-- Selector B of SETUP: codes 0 to 2 (R162). -/
def readSelectorB (b : Byte) : Option SelectorB :=
  if b = 0 then some .none else if b = 1 then some .rising else if b = 2 then some .falling else Option.none

/-! ### Sources and destinations (R181) -/

/-- A destination of a command: kind, lane, group, channel; bytes that the kind does not use are not examined, and the
kind NONE is out of range (R181). -/
def readDest (kind lane group channel : Byte) : Option Dest :=
  if kind = 1 then do
    let l ← readIndex 8 lane
    let g ← readNumber 4 group
    let c ← readNumber 4 channel
    return .lane l g c
  else if kind = 2 then (readNumber 64 channel).map .console
  else none

/-- A source of a command: as a destination, or NONE (R181). -/
def readSource (kind lane group channel : Byte) : Option Source :=
  if kind = 0 then some .none
  else (readDest kind lane group channel).map fun
    | .lane l g c => .lane l g c
    | .console n => .console n

/-- A destination as it is sent (R181). -/
def Dest.bytes : Dest → List Byte
  | .lane l g c => [1, byteOf l, numberByte g, numberByte c]
  | .console n => [2, 0, 0, numberByte n]

/-- A source as it is sent (R181). -/
def Source.bytes : Source → List Byte
  | .none => [0, 0, 0, 0]
  | .lane l g c => [1, byteOf l, numberByte g, numberByte c]
  | .console n => [2, 0, 0, numberByte n]

/-- A label of a command; 0 is out of range (R59, R68, R71, R84, R87, R89, R93). -/
def readLabel (hi lo : Byte) : Option Nat := if nat16 hi lo = 0 then none else some (nat16 hi lo)

/-! ### The parameters of each command (12.2). `none` is the refusal BAD_FIELD of the field-range step (R172, R175);
parameter bytes beyond the fields are not examined (R172). -/

/-- The fields of SETUP, clamps applied (R118, R165, R176). -/
structure SetupRequest where
  rampLength : Nat
  rounding : Rounding
  selectorA : Option Occurrence
  selectorB : SelectorB
  threshold : Nat
  deriving DecidableEq, Repr

/-- SETUP (R118, R165): a ramp length above 4096 is taken as 4096, a threshold above 256 as 256. -/
def readSetup : List Byte → Option SetupRequest
  | r1 :: r0 :: d :: a :: b :: t1 :: t0 :: _ => do
    let rounding ← readDefaultRounding d
    let selectorA ← readSelectorA a
    let selectorB ← readSelectorB b
    return ⟨min (nat16 r1 r0) 4096, rounding, selectorA, selectorB, min (nat16 t1 t0) 256⟩
  | _ => none

/-- ATTEND (R164): which of requests A and B the clear mask names. -/
def readAttend : List Byte → Option (Bool × Bool)
  | m :: _ => if m.toNat < 4 then some (m.getLsbD 0, m.getLsbD 1) else none
  | _ => none

/-- So many destinations of four bytes each. -/
def readDests : Nat → List Byte → Option (List Dest)
  | 0, _ => some []
  | n + 1, k :: l :: g :: c :: rest => do
    let d ← readDest k l g c
    let ds ← readDests n rest
    return d :: ds
  | _ + 1, _ => none

/-- The fields of ADMIT (R59). -/
structure AdmitRequest where
  label : Nat
  source : Source
  setGain : Nat
  muted : Bool
  inverted : Bool
  rounding : Option Rounding
  dests : List Dest
  deriving DecidableEq, Repr

/-- ADMIT (R59): more than 8 destinations, or one named twice, are out of range. -/
def readAdmit : List Byte → Option AdmitRequest
  | l1 :: l0 :: k :: l :: g :: c :: g1 :: g0 :: m :: i :: r :: n :: rest => do
    let label ← readLabel l1 l0
    let source ← readSource k l g c
    let muted ← readBool m
    let inverted ← readBool i
    let rounding ← readRounding r
    let dests ← if n.toNat ≤ Config.listLimit then readDests n.toNat rest else none
    if dests.Nodup then return ⟨label, source, nat16 g1 g0, muted, inverted, rounding, dests⟩ else none
  | _ => none

/-- FIND and RETIRE (R68, R93). -/
def readLabelOnly : List Byte → Option Nat
  | l1 :: l0 :: _ => readLabel l1 l0
  | _ => none

/-- OWNER (R70). -/
def readOwner : List Byte → Option Dest
  | k :: l :: g :: c :: _ => readDest k l g c
  | _ => none

/-- ATTACH and DETACH (R84, R87). -/
def readAttach : List Byte → Option (Nat × Dest)
  | l1 :: l0 :: k :: l :: g :: c :: _ => do
    let label ← readLabel l1 l0
    let d ← readDest k l g c
    return (label, d)
  | _ => none

/-- GUARD (R71). -/
def readGuard : List Byte → Option (Nat × Bool)
  | l1 :: l0 :: b :: _ => do
    let label ← readLabel l1 l0
    let on ← readBool b
    return (label, on)
  | _ => none

/-- The items that an AMEND names, each with its value (R89). -/
structure AmendRequest where
  label : Nat
  setGain : Option Nat
  muted : Option Bool
  inverted : Option Bool
  rounding : Option (Option Rounding)
  source : Option Source
  clearSlipped : Bool
  clearClipped : Bool
  deriving DecidableEq, Repr

/-- An item of AMEND: read when the mask names it, absent otherwise (R89). -/
def readItem (named : Bool) (read : List Byte → Option (α × List Byte)) (bs : List Byte) :
    Option (Option α × List Byte) :=
  if named then (read bs).map fun (x, rest) => (some x, rest) else some (none, bs)

/-- A field of one byte, and what follows it. -/
def readByteField (read : Byte → Option α) : List Byte → Option (α × List Byte)
  | b :: rest => (read b).map fun x => (x, rest)
  | [] => none

/-- A field of two bytes over its full range, and what follows it. -/
def readGainField : List Byte → Option (Nat × List Byte)
  | b1 :: b0 :: rest => some (nat16 b1 b0, rest)
  | _ => none

/-- A source field, and what follows it. -/
def readSourceField : List Byte → Option (Source × List Byte)
  | k :: l :: g :: c :: rest => (readSource k l g c).map fun x => (x, rest)
  | _ => none

/-- AMEND (R89): mask bits 0 to 6 name the items, whose values stand in bit order; bit 7 is out of range; the values of
the two clear items are not examined (R127). -/
def readAmend : List Byte → Option AmendRequest
  | l1 :: l0 :: m :: bs => do
    let label ← readLabel l1 l0
    if m.getLsbD 7 then none
    let (setGain, bs) ← readItem (m.getLsbD 0) readGainField bs
    let (muted, bs) ← readItem (m.getLsbD 1) (readByteField readBool) bs
    let (inverted, bs) ← readItem (m.getLsbD 2) (readByteField readBool) bs
    let (rounding, bs) ← readItem (m.getLsbD 3) (readByteField readRounding) bs
    let (source, bs) ← readItem (m.getLsbD 4) readSourceField bs
    let (clearSlipped, bs) ← readItem (m.getLsbD 5) (readByteField some) bs
    let (clearClipped, _) ← readItem (m.getLsbD 6) (readByteField some) bs
    return ⟨label, setGain, muted, inverted, rounding, source, clearSlipped.isSome, clearClipped.isSome⟩
  | _ => none

/-- A selector of a survey's pattern (R154). -/
inductive Selector where
  | either | clear | set
  deriving DecidableEq, Repr

/-- The selector in two bits of a pattern byte, the higher bit numbered `i + 1`; code 3 is taken as EITHER (R154). -/
def readSelector (b : Byte) (i : Nat) : Selector :=
  match b.getLsbD (i + 1), b.getLsbD i with
  | false, true => .clear
  | true, false => .set
  | _, _ => .either

/-- The fields of SURVEY, clamps applied (R154). The selectors stand in the order of R155. -/
structure SurveyRequest where
  cursor : Nat
  maximum : Nat
  pattern : List Selector
  filter : Option (Fin 8)
  deriving DecidableEq, Repr

/-- The lane filter: FFhex is ANY (R154, 12.2). -/
def readFilter (b : Byte) : Option (Option (Fin 8)) :=
  if b = 0xFF then some none else (readIndex 8 b).map some

/-- The nine selectors of the three pattern bytes (12.2). -/
def readPattern (p1 p2 p3 : Byte) : List Selector :=
  [readSelector p1 6, readSelector p1 4, readSelector p1 2, readSelector p1 0,
   readSelector p2 6, readSelector p2 4, readSelector p2 2, readSelector p2 0, readSelector p3 6]

/-- SURVEY (R154): the cursor is clamped to 256, the maximum to 1 and 16. -/
def readSurvey : List Byte → Option SurveyRequest
  | c1 :: c0 :: m :: p1 :: p2 :: p3 :: f :: _ => do
    let filter ← readFilter f
    return ⟨min (nat16 c1 c0) 256, max 1 (min m.toNat 16), readPattern p1 p2 p3, filter⟩
  | _ => none

/-- A disposition and a word length. -/
def readGroupSetting (d w : Byte) : Option GroupSetting := do
  let disposition ← readDisposition d
  let word ← readWordLength w
  return ⟨disposition, word⟩

/-- LANE (R147). -/
def readLane : List Byte → Option (Fin 8 × LaneSetting)
  | l :: d1 :: w1 :: d2 :: w2 :: d3 :: w3 :: d4 :: w4 :: _ => do
    let lane ← readIndex 8 l
    let g1 ← readGroupSetting d1 w1
    let g2 ← readGroupSetting d2 w2
    let g3 ← readGroupSetting d3 w3
    let g4 ← readGroupSetting d4 w4
    return (lane, ⟨[g1, g2, g3, g4], rfl⟩)
  | _ => none

/-- LANE QUERY (R151). -/
def readLaneQuery : List Byte → Option (Fin 8)
  | l :: _ => readIndex 8 l
  | _ => none

/-- REFERENCE (R30): the lane number is examined only when the kind is LANE. -/
def readReference : List Byte → Option (RefSource × Format)
  | k :: l :: f :: _ => do
    let source ← if k = 0 then some .house else if k = 1 then (readIndex 8 l).map .lane
      else if k = 2 then some .free else none
    let format ← readFormat f
    return (source, format)
  | _ => none

/-! ### The same parameters, encoded (12.2) -/

/-- The parameters of an ADMIT. -/
def AdmitRequest.encode (r : AdmitRequest) : List Byte :=
  bytes16 r.label ++ r.source.bytes ++ bytes16 r.setGain
    ++ [boolByte r.muted, boolByte r.inverted, roundingByte r.rounding, byteOf r.dests.length]
    ++ r.dests.flatMap Dest.bytes

/-- The ADMITs that a frame can carry (R59). -/
def AdmitRequest.wellFormed (r : AdmitRequest) : Bool :=
  1 ≤ r.label && r.label ≤ 65535 && r.setGain ≤ 65535 && r.dests.length ≤ Config.listLimit && decide r.dests.Nodup

/-- The presence mask of an AMEND (12.2). -/
def AmendRequest.mask (r : AmendRequest) : Byte :=
  byteOf (r.setGain.isSome.toNat + 2 * r.muted.isSome.toNat + 4 * r.inverted.isSome.toNat
    + 8 * r.rounding.isSome.toNat + 16 * r.source.isSome.toNat + 32 * r.clearSlipped.toNat + 64 * r.clearClipped.toNat)

/-- The parameters of an AMEND: the values of the named items in bit order (12.2). -/
def AmendRequest.encode (r : AmendRequest) : List Byte :=
  bytes16 r.label ++ [r.mask] ++ r.setGain.elim [] bytes16 ++ r.muted.elim [] (fun b => [boolByte b])
    ++ r.inverted.elim [] (fun b => [boolByte b]) ++ r.rounding.elim [] (fun m => [roundingByte m])
    ++ r.source.elim [] Source.bytes ++ (if r.clearSlipped then [0] else []) ++ (if r.clearClipped then [0] else [])

/-- The AMENDs that a frame can carry (R89). -/
def AmendRequest.wellFormed (r : AmendRequest) : Bool :=
  1 ≤ r.label && r.label ≤ 65535 && r.setGain.all (· ≤ 65535)

/-- The parameters of a SETUP. -/
def SetupRequest.encode (r : SetupRequest) : List Byte :=
  bytes16 r.rampLength ++ [roundingByte (some r.rounding), selectorAByte r.selectorA, r.selectorB.code]
    ++ bytes16 r.threshold

/-- The parameters of an ATTACH or a DETACH. -/
def encodeAttach (label : Nat) (d : Dest) : List Byte := bytes16 label ++ d.bytes

/-- The parameters of a LANE. -/
def encodeLane (l : Fin 8) (setting : LaneSetting) : List Byte :=
  byteOf l :: setting.cells.flatMap fun g => [g.disposition.code, g.word.code]

/-- The parameters of a REFERENCE. -/
def encodeReference (source : RefSource) (freeRun : Format) : List Byte :=
  match source with
  | .house => [0, 0, freeRun.code]
  | .lane l => [1, byteOf l, freeRun.code]
  | .free => [2, 0, freeRun.code]

end Sys2Proof.Machine
end

