-- ==== Sys2Proof/Machine/Ops.lean ====
section
/-! DEFINITION. The shared operations over the state: placement and lookup in the track table, the counts, switch points, arrivals, draws, losses and returns, and the reply of the port. -/

namespace Sys2Proof.Machine

/-! ### Running and replying -/

/-- While the reset line is asserted the part runs no block (R180); otherwise the event acts. Every event goes on. -/
def State.running (s : State) (event : State → State) : Host.Outcome State Fault Refusal :=
  .next (if s.resetHeld then s else event s)

/-- The clock moves on by the time since the event before (log 3). -/
def State.elapse (s : State) (after : Nat) : State := { s with now := s.now + after }

/-- The clock stands at least at the moment an event is due (log 3). -/
def State.reach (s : State) (due : Nat) : State := { s with now := max s.now due }

/-- The held reply of a command (R174). -/
def State.answer (s : State) (c : Command) (r : Result) (data : List Byte) : State :=
  { s with port := { s.port with held := ⟨c.code, r, data⟩ } }

/-- A refusal replaces the held reply and changes nothing else (R175). -/
def State.refuse (s : State) (c : Command) (r : Result) : State := s.answer c r []

/-! ### Sources -/

/-- Whether a lane group is present as a source (R47). -/
def LaneRx.groupPresent (rx : LaneRx) (g : Fin 4) : Bool := rx.state = .locked && (rx.groups.get g).present

/-- How the sources stand (R46, R47). -/
def State.view (s : State) : SourceView
  | .none => none
  | .lane l g _ => if (s.rx.get l).groupPresent g then some ((s.rx.get l).groups.get g).depth else none
  | .console _ => if s.console.up then some s.console.depth else none

/-- The sample at a window position, from 1 (R45). -/
def Window.position (w : Window) (n : Nat) : Sample := w.cells.getD (n - 1) 0

/-- The sample at a position of a source's window; NONE has no window and is not read (R75). -/
def State.sampleAt (s : State) : Source → Nat → Sample
  | .none, _ => 0
  | .lane l g c, n => (((s.rx.get l).groups.get g).windows.get c).position n
  | .console k, n => (s.console.windows.get k).position n

/-- The sources of one lane group. -/
def ofGroup (l : Fin 8) (g : Fin 4) : Source → Bool
  | .lane l' g' _ => l' = l && g' = g
  | _ => false

/-- The sources of the console link. -/
def ofConsole : Source → Bool
  | .console _ => true
  | _ => false

/-! ### Destinations and the map (R63) -/

/-- Where a destination stands in the map: 128 lane destinations, then 64 console destinations. -/
def Dest.index : Dest → Fin 192
  | .lane l g c => ⟨l.1 * 16 + g.1 * 4 + c.1, by omega⟩
  | .console n => ⟨128 + n.1, by omega⟩

def Dest.onLane (l : Fin 8) : Dest → Bool
  | .lane l' _ _ => l' = l
  | .console _ => false

def Dest.onConsole : Dest → Bool
  | .lane _ _ _ => false
  | .console _ => true

/-- The label that the map holds for a destination, if any. -/
def Table.ownerOf (tab : Table) (d : Dest) : Option Nat := tab.map.get d.index

/-- The destinations' map entries are claimed with a label (R62, R86). -/
def Table.claim (tab : Table) (ds : List Dest) (label : Nat) : Table :=
  { tab with map := ds.foldl (fun m d => m.set d.index (some label)) tab.map }

/-- The destinations' map entries are released (R63). -/
def Table.release (tab : Table) (ds : List Dest) : Table :=
  { tab with map := ds.foldl (fun m d => m.set d.index none) tab.map }

/-! ### Placement and lookup (R55, R56, R58) -/

/-- The set index of a label (R55). -/
def setIndex (label : Nat) : Nat := ((label % 64) ^^^ ((label / 64) % 64)) ^^^ (label / 4096)

/-- The set of a label, as one of the 64. -/
def setOfLabel (label : Nat) : Fin 64 := ⟨setIndex label % 64, Nat.mod_lt _ (by decide)⟩

/-- The slot of way `w` in set `set` (section 4.1). -/
def slotOf (set : Fin 64) (w : Fin 4) : Fin 256 := ⟨set.1 * 4 + w.1, by omega⟩

/-- The four slots of a label's set, lowest way first. -/
def waysOf (label : Nat) : List (Fin 256) := [slotOf (setOfLabel label) 0, slotOf (setOfLabel label) 1,
  slotOf (setOfLabel label) 2, slotOf (setOfLabel label) 3]

/-- The slot whose record has the label (R58). -/
def Table.find (tab : Table) (label : Nat) : Option (Fin 256) :=
  (waysOf label).find? fun i => (tab.slots.get i).any fun t => t.label = label

/-- The slot and the record of a label (R58). -/
def Table.lookup (tab : Table) (label : Nat) : Option (Fin 256 × Track) :=
  (tab.find label).bind fun i => (tab.slots.get i).map fun t => (i, t)

/-- The lowest empty way of the label's set (R56). -/
def Table.emptyWay (tab : Table) (label : Nat) : Option (Fin 256) :=
  (waysOf label).find? fun i => (tab.slots.get i).isNone

/-- How many ways of the label's set are occupied (R69). -/
def Table.waysOccupied (tab : Table) (label : Nat) : Nat :=
  (waysOf label).countP fun i => (tab.slots.get i).isSome

/-- The record in a slot, replaced or freed (R57). -/
def Table.put (tab : Table) (i : Fin 256) (t : Option Track) : Table := { tab with slots := tab.slots.set i t }

/-- The slot, record and entry that own a destination (R64). -/
def Table.owning (tab : Table) (d : Dest) : Option (Fin 256 × Track × Entry) :=
  (tab.ownerOf d).bind fun label => (tab.lookup label).bind fun (i, t) => (t.entryFor d).map fun e => (i, t, e)

/-! ### The counts (R65 to R67) -/

/-- The number of records (R65). -/
def Table.records (tab : Table) : Nat := tab.slots.cells.countP (·.isSome)

/-- The lanes whose transmitter holds a staged setting (R66). -/
def State.stagedLanes (s : State) : Nat := s.tx.cells.countP (·.staged.isSome)

/-- The staged items standing in the part (R66). -/
def State.stagedItems (s : State) : Nat :=
  (s.table.slots.cells.map fun o => o.elim 0 Track.stagedItems).sum + s.stagedLanes

/-- Whether a record that stood before an event and stands after it has gone from source lost no to yes (R160). -/
def newlyLost (before after : Option Track) : Bool :=
  match before, after with
  | some b, some a => a.sourceLost && !b.sourceLost
  | _, _ => false

/-- Whether some record that stood before an event and stands after it has newly lost its source (R160). -/
def Table.anyNewlyLost (before after : Table) : Bool :=
  (before.slots.zip after.slots).cells.any fun p => newlyLost p.1 p.2

/-- The reports of the table to the attention unit about one event that found the part as `before`: SOURCE_LOST for each
track newly lost, SWITCHES_DONE when the staged-item count fell to 0, and the change of occupancy (R65, R67, R82, R108). -/
def State.reportTable (before s : State) : State :=
  let lost := s.reportIf (before.table.anyNewlyLost s.table) .sourceLost
  let done := lost.reportIf (0 < before.table.staged && s.table.staged = 0) .switchesDone
  { done with attn := done.attn.reportOccupancy before.table.occupancy s.table.occupancy }

/-- One event of the table ends: the two counts change by the net of what it added and removed, and the changes are
reported (R65, R67, R83). `before` is the part as the event found it. -/
def State.settle (before s : State) : State :=
  State.reportTable before { s with table := { s.table with
    occupancy := before.table.occupancy + s.table.records - before.table.records
    staged := before.table.staged + s.stagedItems - before.stagedItems } }

/-! ### Events over the whole table -/

/-- `f` of every record. -/
def State.mapTracks (s : State) (f : Track → Track) : State :=
  { s with table := { s.table with slots := s.table.slots.map (Option.map f) } }

/-- Whether some record satisfies `p`. -/
def State.anyTrack (s : State) (p : Track → Bool) : Bool := s.table.slots.cells.any fun o => o.any p

/-- The sources `gone` have gone from present to not present (R108, R109). -/
def State.sourcesLost (s : State) (gone : Source → Bool) : State :=
  State.settle s (s.mapTracks fun t => t.lose gone)

/-- The sources `back` have gone from not present to present (R110). -/
def State.sourcesBack (s : State) (back : Source → Bool) : State :=
  s.mapTracks fun t => t.comeBack s.view s.gain.rampLength back

/-- One arrival on each of the sources `into`, whose depth it has left at `depth`, is handed to the table (R48, R101,
R102); a slip-drop is reported (R106). -/
def State.arrival (s : State) (into : Source → Bool) (depth : Nat) : State :=
  (s.mapTracks fun t => t.arrive into depth).reportIf (s.anyTrack fun t => t.slipsOnArrival into) .slip

/-- The destinations concerned that some entry leaves at this switch point (R81). -/
def State.leftAt (s : State) (concerned : Dest → Bool) : List Dest :=
  s.table.slots.cells.flatMap fun o => o.elim [] fun t => t.leftAt concerned

/-- The table at a switch point of the destinations concerned, counts aside (R81, R82, R95). -/
def State.landTable (s : State) (concerned : Dest → Bool) : State :=
  let land (o : Option Track) : Option Track := o.bind fun t => t.atSwitchPoint s.view s.gain.rampLength concerned
  { s with table := { s.table with slots := s.table.slots.map land }.release (s.leftAt concerned) }

/-- A switch point of the console destinations, as one event (R80, R81, R83). -/
def State.consoleSwitchPoint (s : State) : State := State.settle s (s.landTable Dest.onConsole)

/-- A draw for one destination: the value handed to the transmitter, and the part after it (R64, R103 to R106, R128 to
R131). A destination with no owner yields 0 and draws nothing (R144, R152). -/
def State.draw (s : State) (d : Dest) (w : WordLength) : Int × State :=
  match s.table.owning d with
  | none => (0, s)
  | some (i, t, e) =>
    let window := s.sampleAt (t.effective e)
    let x := t.drawn window e
    let t' := { (t.modifyEntry d (t.entryDrawn window)) with
      slipped := t.slipped || t.slipsOnDraw e
      clipped := t.clipped || t.clips s.gain.rounding w x }
    (t.shape s.gain.rounding w x, { s with table := s.table.put i (some t') }.reportIf (t.slipsOnDraw e) .slip)

/-- Draws for several destinations in order, all at one word length. -/
def State.draws (s : State) (w : WordLength) : List Dest → List Int × State
  | [] => ([], s)
  | d :: ds =>
    let first := s.draw d w
    let others := first.2.draws w ds
    (first.1 :: others.1, others.2)

/-! ### Dispositions -/

/-- Whether a destination's group is EMBED in force and would stay so under a staged setting of its lane; a console
destination passes at all times (R60, R86). -/
def State.embeds (s : State) : Dest → Bool
  | .console _ => true
  | .lane l g _ => ((s.tx.get l).groups.get g).disposition = .embed
      && (s.tx.get l).staged.all fun setting => (setting.get g).disposition = .embed

/-- The owned channels of a lane group (R151). -/
def State.ownedChannels (s : State) (l : Fin 8) (g : Fin 4) : Nat :=
  [0, 1, 2, 3].countP fun c => (s.table.ownerOf (.lane l g c)).isSome

end Sys2Proof.Machine
end

