-- ==== Sys2Proof/Machine/Layouts.lean ====
section
/-! DEFINITION. The data of the replies (spec 12 section 12.2). -/

namespace Sys2Proof.Machine

/-- The code of a reference source kind, and of the reference states (R181). -/
def RefSource.kindByte : RefSource → Byte
  | .house => 0
  | .lane _ => 1
  | .free => 2
def RefSource.laneByte : RefSource → Byte
  | .lane l => byteOf l
  | _ => 0
def RefState.code : RefState → Byte
  | .free => 0
  | .locked => 1
  | .holdover => 2

/-- The reference record (R31). -/
def RefUnit.record (r : RefUnit) : List Byte :=
  [r.source.kindByte, r.source.laneByte, r.state.code, r.format.code, byteOf r.phase, boolByte r.align, r.freeRun.code,
   formatByte r.candidate, byteOf r.count]

/-- The attention record (R164). -/
def State.attentionRecord (s : State) : List Byte :=
  [boolByte s.attn.requestA, boolByte s.attn.requestB, selectorAByte s.attn.selectorA, s.attn.selectorB.code]
    ++ bytes16 s.attn.threshold ++ bytes16 s.table.occupancy ++ bytes16 s.table.staged

/-- One entry of the track record reply (R68): the lag is 0 for an entry that keeps none, the marker no while the track
holds no pending source. -/
def Track.entryRecord (t : Track) (e : Entry) : List Byte :=
  e.dest.bytes ++ [e.phase.code, boolByte (e.taken && t.pendingSource.isSome),
    byteOf (if t.keepsLag e then e.lag else 0)] ++ sampleBytes e.last

/-- The ramp fields of the track record reply. -/
def Ramp.record (r : Ramp) : List Byte :=
  bytes16 r.start ++ bytes16 r.target ++ bytes16 r.length ++ bytes16 r.elapsed

/-- The track record reply of FIND (R68). -/
def Track.record (t : Track) (slot : Fin 256) : List Byte :=
  [byteOf slot] ++ bytes16 t.label ++ [boolByte t.retiring, boolByte t.guarded] ++ bytes16 t.setGain
    ++ [boolByte t.muted, boolByte t.inverted, roundingByte t.rounding] ++ t.source.bytes
    ++ t.pendingSource.elim [0] (fun src => 1 :: src.bytes) ++ [boolByte t.sourceLost] ++ bytes16 t.gainNow
    ++ t.ramp.elim [0] (fun r => 1 :: r.record) ++ [boolByte t.slipped, boolByte t.clipped, byteOf t.entries.length]
    ++ t.entries.flatMap t.entryRecord

/-- Dispositions and word lengths of the four groups, in turn. -/
def LaneSetting.record (setting : LaneSetting) : List Byte :=
  setting.cells.flatMap fun g => [g.disposition.code, g.word.code]

def TxMode.code : TxMode → Byte
  | .follow => 0
  | .fallback => 1
def RxState.code : RxState → Byte
  | .noSignal => 0
  | .seeking => 1
  | .locked => 2

/-- The lane record (R151). -/
def State.laneRecord (s : State) (l : Fin 8) : List Byte :=
  let tx := s.tx.get l
  let rx := s.rx.get l
  let groupRecord (g : Fin 4) : List Byte :=
    [boolByte (rx.groups.get g).present, byteOf (rx.groups.get g).hysteresis, byteOf (rx.groups.get g).depth,
     byteOf (s.ownedChannels l g)]
  [tx.mode.code, tx.format.code, byteOf tx.phase] ++ LaneSetting.record tx.groups
    ++ tx.staged.elim (List.replicate 9 0) (fun setting => 1 :: LaneSetting.record setting)
    ++ [rx.state.code, formatByte rx.format, rx.arrivingPhase.elim 0xFF byteOf]
    ++ [0, 1, 2, 3].flatMap groupRecord

end Sys2Proof.Machine
end

