-- ==== Sys2Proof/Machine/Packets.lean ====
section
/-! DEFINITION. Sound packets and console frames as bytes: the marker search, the judging of a packet, the building of one (spec 03 sections 3.2 and 3.3, 08 section 8.5, 12.3, 12.4). -/

namespace Sys2Proof.Machine

/-- A sound packet: its three header bytes after the marker, its sample bytes and its check byte (R182). -/
structure Packet where
  group : Byte
  phase : Byte
  count : Byte
  samples : List Byte
  check : Byte
  deriving DecidableEq, Repr

/-- The marker (R182). -/
def markerBytes : List Byte := [0x5A, 0xC3]

/-- The packet as its bytes (R182). -/
def Packet.bytes (p : Packet) : List Byte :=
  markerBytes ++ [p.group, p.phase, p.count] ++ p.samples ++ [p.check]

/-- k, the low four bits of the count field (R182). -/
def countOf (count : Byte) : Nat := count.toNat % 16

/-- Whether the word-length flag names 20 (R182). -/
def Packet.flag20 (p : Packet) : Bool := p.count.getLsbD 7

/-- What the marker search comes upon first (R38, R39). -/
inductive Found where
  | nothing
  | taken (p : Packet)
  | countDamaged (group : Byte)
  | cutOff (group : Option Byte)
  deriving DecidableEq, Repr

/-- A packet read from the byte after its marker on (R38, R39). -/
def readPacket : List Byte → Found
  | g :: p :: c :: body =>
    if countOf c = 0 || 4 < countOf c then .countDamaged g
    else match body.drop (12 * countOf c) with
      | [] => .cutOff (some g)
      | check :: _ => .taken ⟨g, p, c, body.take (12 * countOf c), check⟩
  | g :: _ => .cutOff (some g)
  | [] => .cutOff none

/-- The search of a line's blanking for the next marker, from where it last resumed; bytes that form no marker are
passed over (R38). -/
def search : List Byte → Found
  | [] => .nothing
  | b :: rest => if b = 0x5A && rest.head? = some 0xC3 then readPacket (rest.drop 1) else search rest

/-- The sum of bytes. -/
def sumBytes (bs : List Byte) : Nat := (bs.map BitVec.toNat).sum

/-- Whether a taken packet is valid on a feed of cadence length Q (R39). -/
def Packet.valid (p : Packet) (Q : Nat) : Bool :=
  sumBytes p.bytes % 256 = 0 && (readNumber 4 p.group).isSome && p.phase.toNat < Q

/-- The sample of three received bytes: 24 bits as they stand, or 16 times the upper 20 (R41). -/
def arrivedSample (flag20 : Bool) (raw : Sample) : Sample :=
  if flag20 then raw.extractLsb' 4 20 ++ (0 : BitVec 4) else raw

/-- The sample that stands at a place of a byte list. -/
def sampleFrom (bs : List Byte) (i : Nat) : Sample := sampleOf (bs.getD i 0) (bs.getD (i + 1) 0) (bs.getD (i + 2) 0)

/-- The sample sets of a packet, in order, each of channels 1 to 4 (R41). -/
def Packet.sets (p : Packet) : List (Bank Sample 4) :=
  (List.range (countOf p.count)).map fun i =>
    Bank.ofFn fun c => arrivedSample p.flag20 (sampleFrom p.samples (12 * i + 3 * c.1))

/-! ### Built packets (R145) -/

/-- A shaped sample as a packet sends it: 24 bits, or 20 with the lowest four bits 0 (R145). -/
def builtSample (w : WordLength) (v : Int) : List Byte :=
  match w with
  | .w24 => sampleBytes (BitVec.ofInt 24 v)
  | .w20 => sampleBytes (BitVec.ofInt 20 v ++ (0 : BitVec 4))

/-- The count field of a built packet (R145, R182). -/
def countField (w : WordLength) (k : Nat) : Byte :=
  match w with
  | .w24 => byteOf k
  | .w20 => byteOf (128 + k)

/-- The check byte that makes the sum of a packet 0 modulo 256 (R182). -/
def checkByte (bs : List Byte) : Byte := byteOf (256 - sumBytes bs % 256)

/-- The packet that an EMBED group builds from its shaped samples, in the order of the packet (R145). -/
def buildPacket (g : Fin 4) (phase k : Nat) (w : WordLength) (values : List Int) : List Byte :=
  let body := markerBytes ++ [numberByte g, byteOf phase, countField w k] ++ values.flatMap (builtSample w)
  body ++ [checkByte body]

/-- The passed packets placed in the room left: in order while each fits, none after the first that does not (R142). -/
def fitPackets : Nat → List (List Byte) → List Byte
  | _, [] => []
  | room, p :: ps => if p.length ≤ room then p ++ fitPackets (room - p.length) ps else []

/-! ### The console frame (R183) -/

/-- The framing pattern (R183). -/
def framingPattern : List Byte := [0xE1, 0x4B, 0x72]

/-- Whether a console frame is framed: 195 bytes that open with the pattern (R49, R183; log 17). -/
def framed (bytes : List Byte) : Bool := bytes.length = 195 && bytes.take 3 = framingPattern

/-- The 64 samples of a console frame, channel 1 first (R183). -/
def consoleSamples (bytes : List Byte) : Bank Sample 64 := Bank.ofFn fun n => sampleFrom bytes (3 + 3 * n.1)

/-- The console frame that is sent with these samples (R152, R183). -/
def consoleFrame (values : List Int) : List Byte := framingPattern ++ values.flatMap (builtSample .w24)

end Sys2Proof.Machine
end

