-- ==== Sys2Proof/Machine/Instants.lean ====
section
/-! DEFINITION. Reference sample instants: when one is due, and its work, the console frame sent and the ramp steps (spec 02 R27, 07 section 7.4, 08 section 8.7). -/

namespace Sys2Proof.Machine

/-- A reference unit in place of the part's. -/
def State.withRef (s : State) (r : RefUnit) : State := { s with ref := r }

/-- The clock at which the instant numbered `i` in the frame in progress is due (R27), rounded up to the clock's unit. -/
def RefUnit.instantDue (r : RefUnit) (i : Nat) : Nat :=
  r.frameStart + (i * r.pace * r.format.cadence + (r.format.numerator - 1)) / r.format.numerator

/-- The console channels, 1 to 64, that stand before (or not) the ramp step of an instant (R123). -/
def consoleChannels (early : BitVec 64) (before : Bool) : List (Fin 64) :=
  (List.finRange 64).filter fun n => early.getLsbD n.1 = before

/-- The value drawn for a channel; 0 where none was. -/
def valueFor (drawn : List (Fin 64 × Int)) (n : Fin 64) : Int := (drawn.find? fun p => p.1 = n).elim 0 Prod.snd

/-- One instant's work: the console frame is sent and every ramp steps, the channels of `early` drawn before the step
and the others after it (R122, R123, R152). -/
def State.instantWork (s : State) (early : BitVec 64) : State :=
  let first := s.draws .w24 ((consoleChannels early true).map .console)
  let stepped := first.2.mapTracks Track.stepRamp
  let second := stepped.draws .w24 ((consoleChannels early false).map .console)
  let drawn := (consoleChannels early true).zip first.1 ++ (consoleChannels early false).zip second.1
  { second.2 with consoleOut := consoleFrame ((List.finRange 64).map (valueFor drawn)) }

/-- Whether the frame in progress has an instant left to emit (R27). -/
def RefUnit.instantLeft (r : RefUnit) : Bool := r.emitted < r.format.samples r.phase

/-- The next instant of the frame in progress is emitted, the clock standing at least at the moment it is due; its work
is still to come (R27). -/
def State.emitInstant (s : State) : State :=
  (s.reach (s.ref.instantDue s.ref.emitted)).withRef { s.ref with emitted := s.ref.emitted + 1, owed := true }

/-- The work of the instant last emitted is done. -/
def State.workInstant (s : State) (early : BitVec 64) : State :=
  (s.withRef { s.ref with owed := false }).instantWork early

/-- Work of the instant last emitted that is still to come is done, every draw after the ramp step (log 10). -/
def State.completeInstant (s : State) : State := if s.ref.owed then s.workInstant 0 else s

end Sys2Proof.Machine
end

