-- ==== Sys2Proof/Machine/Transmitters.lean ====
section
/-! DEFINITION. The lane transmitters: outgoing frame starts, lines reached, packets built and passed (spec 08). -/

namespace Sys2Proof.Machine

/-- A lane transmitter in place of lane `l`'s. -/
def State.setTx (s : State) (l : Fin 8) (tx : LaneTx) : State := { s with tx := s.tx.set l tx }

/-! ### The draws of a line (R133, R144; log 20) -/

/-- The channels of an open packet whose draws are still to be made, set by set in the order of the packet (R144). -/
def OpenPacket.left (p : OpenPacket) : List (Fin 4) :=
  (List.range p.sets).flatMap fun i => [0, 1, 2, 3].filter fun c => p.drawn.countP (fun x => x.1 = c) ≤ i

/-- The samples of a packet in its order, each channel's draws in the order made (R144). -/
def OpenPacket.values (p : OpenPacket) : List Int :=
  (List.range p.sets).flatMap fun i => [0, 1, 2, 3].map fun c => ((p.drawn.filter fun x => x.1 = c).map (·.2)).getD i 0

/-- All that is left of a packet is drawn, as the part stands (R133, R144). -/
def State.drawLeft (s : State) (l : Fin 8) (p : OpenPacket) : OpenPacket × State :=
  let drawn := s.draws p.word (p.left.map (Dest.lane l p.group))
  ({ p with drawn := p.drawn ++ p.left.zip drawn.1 }, drawn.2)

/-- All that is left of a line's packets is drawn, packet by packet. -/
def State.drawPackets (s : State) (l : Fin 8) : List OpenPacket → List OpenPacket × State
  | [] => ([], s)
  | p :: ps =>
    let first := s.drawLeft l p
    let others := first.2.drawPackets l ps
    (first.1 :: others.1, others.2)

/-- The next draw of one channel of one group is made, as the part stands; there is none where the line builds no packet
of the group or has made all the channel's draws (R133, R144). -/
def State.drawOne (s : State) (l : Fin 8) (g c : Fin 4) : List OpenPacket → List OpenPacket × State
  | [] => ([], s)
  | p :: ps =>
    if p.group = g then
      if c ∈ p.left then
        let drawn := s.draw (.lane l g c) p.word
        ({ p with drawn := p.drawn ++ [(c, drawn.1)] } :: ps, drawn.2)
      else (p :: ps, s)
    else
      let others := s.drawOne l g c ps
      (p :: others.1, others.2)

/-- Draws of the listed channels in turn, one each. -/
def State.drawListed (s : State) (l : Fin 8) : List (Fin 4 × Fin 4) → List OpenPacket → List OpenPacket × State
  | [], ps => (ps, s)
  | (g, c) :: cs, ps =>
    let first := s.drawOne l g c ps
    first.2.drawListed l cs first.1

/-- The built packets and then the passed ones that fit: what the blanking of a carriage line carries (R142). -/
def OpenLine.blanking (line : OpenLine) (phase : Nat) : List Byte :=
  let built := line.packets.flatMap fun p => buildPacket p.group phase p.sets p.word p.values
  built ++ fitPackets (Config.blankingRoom - built.length) line.passed

/-- The line stands with these packets: open while a draw is left, else whole, its blanking filled (R142). -/
def LaneTx.withLine (tx : LaneTx) (line : OpenLine) : LaneTx :=
  if line.packets.all fun p => p.left.isEmpty then { tx with line := none, blanking := line.blanking tx.phase }
  else { tx with line := some line }

/-- The open line of a lane goes on: all draws that are left fall, or one of each channel listed (log 20). -/
def State.goOnLine (s : State) (l : Fin 8) (draws : Option (List (Fin 4 × Fin 4))) : State :=
  match (s.tx.get l).line with
  | none => s
  | some line =>
    let drawn := match draws with
      | none => s.drawPackets l line.packets
      | some cs => s.drawListed l cs line.packets
    drawn.2.setTx l ((s.tx.get l).withLine { line with packets := drawn.1 })

/-- A line reached is drawn whole before its frame ends (R11). -/
def State.finishLine (s : State) (l : Fin 8) : State := s.goOnLine l none

/-- Every line reached is drawn whole (R153). -/
def State.finishLines (s : State) : State := (List.finRange 8).foldl State.finishLine s

/-! ### Outgoing frame starts (R135, R137 to R141) -/

/-- An outgoing frame start: the frame's mode, format, phase and plan, the landing of a staged setting, and the switch
point of the lane's destinations, as one event; the last line of the frame it ends is drawn whole first (R10, R11, R79,
R83, R140, R141, R150). -/
def State.beginOutgoingFrame (s : State) (l : Fin 8) (mode : TxMode) (format : Format) (phase : Nat)
    (passing : Bool) (store : List TakenPacket) : State :=
  let s := s.finishLine l
  let tx := s.tx.get l
  State.settle s ((s.setTx l { tx with
    mode := mode, format := format, phase := phase, plan := Plan.of format phase, lines := 0
    groups := tx.staged.getD tx.groups, staged := none, passing := passing, store := store }).landTable (Dest.onLane l))

/-- The phase of a FOLLOW frame: the arriving phase, else the successor, else 0 at a change of format (R141). -/
def LaneTx.followPhase (tx : LaneTx) (format : Format) : Option Nat → Nat
  | some p => p
  | none => if format = tx.format then format.successor tx.phase else 0

/-- The outgoing frame start that the oldest handed switch line gives (R135, R138, R140, R141); none is due where no
handed switch line waits (log 11). -/
def State.handedFrameStart (s : State) (l : Fin 8) : State :=
  let tx := s.tx.get l
  match tx.handed with
  | [] => s
  | h :: rest =>
    let format := h.format.getD tx.format
    (s.setTx l { tx with handed := rest }).beginOutgoingFrame l .follow format
      (tx.followPhase format (s.rx.get l).arrivingPhase) h.format.isSome h.packets

/-- A lane at a reference frame start: a frame begins in FALLBACK, and a FOLLOW transmitter whose receiver is not LOCKED
moves to FALLBACK there (R137, R139). -/
def State.laneAtReferenceFrame (s : State) (l : Fin 8) : State :=
  if (s.tx.get l).mode = .fallback || (s.rx.get l).state != .locked then
    s.beginOutgoingFrame l .fallback s.ref.format s.ref.phase false []
  else s

/-! ### Lines (R142 to R145) -/

/-- The packets to build on a line on which each EMBED group draws `k` sample sets: one per EMBED group, in group order,
nothing drawn yet (R142, R144). -/
def LaneTx.packetsOf (tx : LaneTx) (k : Nat) : List OpenPacket :=
  ([0, 1, 2, 3].filter fun g => (tx.groups.get g).disposition = .embed).map fun g => ⟨g, (tx.groups.get g).word, k, []⟩

/-- The packets that the PASS groups pass on the line that carries arriving line `arriving` (R143). -/
def LaneTx.passed (tx : LaneTx) (arriving : Nat) : List (List Byte) :=
  if tx.mode = .follow then
    (tx.store.filter fun p => p.line = arriving && (tx.groups.get p.group).disposition = .pass).map (·.bytes)
  else []

/-- What the line numbered `n` from 1 builds and passes: nothing on lines 1 and 2, no packet to build on a line of share
0 or beyond the plan (R3, R8, R12, R142 to R144). -/
def LaneTx.openLine (tx : LaneTx) (n arriving : Nat) : OpenLine :=
  if n < 3 then ⟨[], []⟩
  else ⟨if tx.plan.share (n - 3) = 0 then [] else tx.packetsOf (tx.plan.share (n - 3)), tx.passed arriving⟩

/-- The next line of the outgoing frame is reached, none of its draws made (R142). -/
def LaneTx.reached (tx : LaneTx) (arriving : Nat) (flat : Bool) : LaneTx :=
  { tx with
    lines := tx.lines + 1
    flat := flat
    store := tx.store.filter fun p => p.line ≠ arriving
    line := some (tx.openLine (tx.lines + 1) arriving) }

/-- The next line of the outgoing frame is reached and draws what falls in this event (R142; log 20). -/
def State.reachLine (s : State) (l : Fin 8) (line : LineReach) (flat : Bool) : State :=
  (s.setTx l ((s.tx.get l).reached line.arriving flat)).goOnLine l line.draws

/-- The instant at which the next line of a FALLBACK frame is reached: floor((n − 1) × S / L) for line n (R139). -/
def LaneTx.lineInstant (tx : LaneTx) : Nat := tx.lines * tx.plan.samples / (tx.plan.carriage + 2)

/-- The next line of a FALLBACK frame: reached once its instant has been emitted, or together with the next instant where
that is its own; no line is reached before its instant, and none after the frame's last (R139; log 10). -/
def State.reachFallbackLine (s : State) (l : Fin 8) (line : LineReach) : State :=
  let tx := s.tx.get l
  let line := { line with arriving := 0 }
  if tx.plan.carriage + 2 ≤ tx.lines then s
  else if tx.lineInstant < s.ref.emitted then s.reachLine l line true
  else if tx.lineInstant = s.ref.emitted && s.ref.instantLeft then
    s.completeInstant.emitInstant.reachLine l line true
  else s

/-- OUTGOING_FRAME_START (R135). -/
def execOutgoingFrameStart (l : Fin 8) (s : State) : Host.Outcome State Fault Refusal :=
  s.running fun s => s.handedFrameStart l

/-- LINE_REACHED (R135, R139, R142): the lane's open line goes on; where none is open the next one is reached. -/
def execLineReached (l : Fin 8) (line : LineReach) (s : State) : Host.Outcome State Fault Refusal :=
  s.running fun s =>
    if (s.tx.get l).line.isSome then s.goOnLine l line.draws
    else match (s.tx.get l).mode with
      | .follow => s.reachLine l line false
      | .fallback => s.reachFallbackLine l line

/-- FLAT_LINE_REACHED (R136): in FOLLOW only. -/
def execFlatLineReached (l : Fin 8) (line : LineReach) (s : State) : Host.Outcome State Fault Refusal :=
  s.running fun s =>
    match (s.tx.get l).mode with
    | .follow => if (s.tx.get l).line.isSome then s.goOnLine l line.draws else s.reachLine l line true
    | .fallback => s

end Sys2Proof.Machine
end

