-- ==== Sys2Proof/Machine/Reference.lean ====
section
/-! DEFINITION. The reference unit, and the events of its source, its frames, its instants and the gain ramps that run on them (spec 02, 07 section 7.4). -/

namespace Sys2Proof.Machine

/-! ### Reference frame starts (R26) -/

/-- The format of the reference frame that begins (R26). The locked format is the lock count's candidate (R23). -/
def RefUnit.nextFormat (r : RefUnit) : Format :=
  match r.state with
  | .free => r.freeRun
  | .locked => r.candidate.getD r.format
  | .holdover => r.format

/-- The phase of the reference frame that begins (R26). -/
def RefUnit.nextPhase (r : RefUnit) : Nat :=
  if r.nextFormat ≠ r.format then 0 else if r.align then 0 else r.format.successor r.phase

/-- How long the generator lets a frame of this format and phase run, and the period its instants are spaced by (R20,
R21, R27). -/
def RefUnit.lengthOf (r : RefUnit) (f : Format) (p : Nat) : Nat :=
  match r.state with
  | .free => f.samples p * Config.unitsPerSample
  | .locked => r.lockedPeriod
  | .holdover => r.holdover

def RefUnit.paceOf (r : RefUnit) (f : Format) : Nat :=
  match r.state with
  | .free => f.nominal
  | .locked => r.lockedPeriod
  | .holdover => r.holdover

/-- The unit's own part of a reference frame start (R26, R27, R29). -/
def RefUnit.beginFrame (r : RefUnit) (now : Nat) : RefUnit :=
  { r with
    format := r.nextFormat, phase := r.nextPhase, align := false, frameStart := now
    frameLength := r.lengthOf r.nextFormat r.nextPhase, pace := r.paceOf r.nextFormat, emitted := 0 }

/-- A reference frame start, handed to the blocks that use it: the console destinations' switch point, then each lane
(R26, R28, R80, R137, R139; the order among the blocks: log 6). An instant emitted in the frame it ends does its work
first (log 10). DESIGN CHOICE (log 23): the frame's own instant 0, which falls at the frame start too, always comes
after it, so it is the first step of a ramp that a completion here creates, where R123 lets either be first. -/
def State.beginReferenceFrame (s : State) : State :=
  let s := s.completeInstant
  (List.finRange 8).foldl State.laneAtReferenceFrame
    (s.withRef (s.ref.beginFrame s.now)).consoleSwitchPoint

/-- The report of an event that found the part as `before`: one REFERENCE_CHANGE when it changed the reference state,
the reference format, or both (R28). -/
def State.reportReference (before s : State) : State :=
  s.reportIf (before.ref.state != s.ref.state || before.ref.format != s.ref.format) .referenceChange

/-! ### The lock count and the states (R19, R22 to R25) -/

/-- The lock count after the class of a frame (R22, R34). -/
def countLock (candidate : Option Format) (count : Nat) : Option Format → Option Format × Nat
  | none => (none, 0)
  | some f => if candidate = some f then (some f, count + 1) else (some f, 1)

/-- A switch line of the selected source, at the clock; `cls` is the class of the frame it ends (none where it ends no
frame), `period` that frame's period (R17 to R19, R22 to R24). -/
def State.sourceSwitchLine (s : State) (cls : Option (Option Format)) (period : Nat) : State :=
  let r : RefUnit := { s.ref with present := true, lastLine := s.now, counted := true }
  match s.ref.state, if s.ref.counted then cls else none with
  | .free, _ => s
  | .holdover, none => s.withRef r
  | .holdover, some c =>
    let lock := countLock r.candidate r.count c
    let r : RefUnit := { r with candidate := lock.1, count := lock.2 }
    if lock.2 = 2 then
      (s.withRef { r with state := .locked, lockedPeriod := period }).beginReferenceFrame
    else s.withRef r
  | .locked, none => (s.withRef r).beginReferenceFrame
  | .locked, some c =>
    if c = some r.nextFormat then (s.withRef { r with lockedPeriod := period }).beginReferenceFrame
    else
      let lock := countLock none 0 c
      let r : RefUnit := { r with
        state := .holdover, holdover := r.lockedPeriod, candidate := lock.1, count := lock.2 }
      (s.withRef r).beginReferenceFrame

/-- The selected source is lost (R22, R25). -/
def State.sourceLoss (s : State) : State :=
  let r : RefUnit := { s.ref with present := false, counted := false, candidate := none, count := 0 }
  match s.ref.state with
  | .free => s
  | .holdover => s.withRef r
  | .locked =>
    (s.withRef { r with state := .holdover, holdover := r.lockedPeriod }).beginReferenceFrame

/-! ### Selecting a source (R20, R21, R30) -/

/-- The frame in progress ends at once when the end that the generator has set for it has already passed (R20, R21).
DESIGN CHOICE (log 19): an end that falls exactly at the command counts as passed. -/
def State.endIfPassed (s : State) : State :=
  if s.ref.frameStart + s.ref.frameLength ≤ s.now then s.beginReferenceFrame else s

/-- FREE is entered (R20, R30). -/
def State.enterFree (s : State) : State :=
  let r : RefUnit := { s.ref with
    source := .free, state := .free, candidate := none, count := 0, counted := false
    frameLength := if s.ref.state = .locked then s.ref.lockedPeriod else s.ref.frameLength }
  (s.withRef r).endIfPassed

/-- The holdover period is set, and with it the end of the frame in progress and the spacing of its instants (R21, R27). -/
def RefUnit.holdAt (r : RefUnit) (period : Nat) : RefUnit :=
  { r with holdover := period, frameLength := period, pace := period }

/-- HOUSE or a lane other than the one selected is selected; `present` says whether it is not lost (R21, R27, R30). -/
def State.selectSource (s : State) (source : RefSource) (present : Bool) : State :=
  let r : RefUnit := { s.ref with
    source := source, state := .holdover, candidate := none, count := 0, present := present
    lastLine := s.now, counted := false }
  match s.ref.state with
  | .holdover => s.withRef r
  | .locked => (s.withRef (r.holdAt r.lockedPeriod)).endIfPassed
  | .free => (s.withRef (r.holdAt r.format.nominal)).endIfPassed

/-- Whether a source that is selected is present: all but a lane whose receiver stands in NO_SIGNAL (R30). -/
def State.refSourcePresent (s : State) : RefSource → Bool
  | .lane l => (s.rx.get l).state != .noSignal
  | _ => true

/-- An accepted REFERENCE (R30), with its report (R28). -/
def State.setReference (s : State) (source : RefSource) (freeRun : Format) : State :=
  let stored := s.withRef { s.ref with freeRun := freeRun }
  State.reportReference s <|
    if source = s.ref.source then stored
    else if source = .free then stored.enterFree
    else stored.selectSource source (stored.refSourcePresent source)

/-! ### The events -/

/-- HOUSE_SWITCH_LINE (R17, R19, R22 to R24). -/
def execHouseSwitchLine (lines after : Nat) (s : State) : Host.Outcome State Fault Refusal :=
  s.running fun s =>
    let s := s.elapse after
    let period := s.now - s.ref.lastLine
    if s.ref.source = .house then
      State.reportReference s (s.sourceSwitchLine (some (classify lines period)) period)
    else s

/-- HOUSE_LOST (R17, R22, R25). -/
def execHouseLost (s : State) : Host.Outcome State Fault Refusal :=
  s.running fun s =>
    if s.ref.source = .house && s.ref.present then
      State.reportReference s ((s.reach (s.ref.lastLine + Config.lossTime)).sourceLoss)
    else s

/-- REFERENCE_FRAME_START (R20, R21, R26): the generator's; in LOCKED a frame starts at a switch line of the source and
within that event (R24; log 5). -/
def execReferenceFrameStart (s : State) : Host.Outcome State Fault Refusal :=
  s.running fun s =>
    if s.ref.state = .locked then s
    else State.reportReference s (s.reach (s.ref.frameStart + s.ref.frameLength)).beginReferenceFrame

/-- REFERENCE_SAMPLE_INSTANT (R27): the work of an instant that a line was reached at, or else the next instant and its
work; a frame that has emitted all its instants emits no further one. -/
def execReferenceSampleInstant (early : BitVec 64) (s : State) : Host.Outcome State Fault Refusal :=
  s.running fun s =>
    if s.ref.owed then s.workInstant early
    else if s.ref.instantLeft then s.emitInstant.workInstant early
    else s

/-- RAMP_REACHES_TARGET (R122): the last step of one track's ramp (log 7). -/
def execRampReachesTarget (label : Nat) (s : State) : Host.Outcome State Fault Refusal :=
  s.running fun s =>
    match s.table.lookup label with
    | none => s
    | some (i, t) => if t.lastStepDue then { s with table := s.table.put i (some t.stepRamp) } else s

end Sys2Proof.Machine
end

