-- ==== Sys2Proof/Machine/Receivers.lean ====
section
/-! DEFINITION. The lane receivers and the console link receiver: receive states, packets, group presence, arrivals (spec 03). -/

namespace Sys2Proof.Machine

/-- A lane receiver in place of lane `l`'s. -/
def State.setRx (s : State) (l : Fin 8) (rx : LaneRx) : State := { s with rx := s.rx.set l rx }

/-! ### Group presence (R36, R42, R43) -/

/-- A new frame begins: no packet of it has been seen (R40, R42). -/
def GroupRx.clearMarks (g : GroupRx) : GroupRx := { g with validSeen := false, damagedSeen := false }

/-- Whether the frame just ended was good for the group (R42). -/
def GroupRx.good (g : GroupRx) : Bool := g.validSeen && !g.damagedSeen

/-- The group goes ABSENT: hysteresis count and depth 0 (R36, R43). -/
def GroupRx.absent (g : GroupRx) : GroupRx := { g with present := false, hysteresis := 0, depth := 0 }

/-- The class of the frame just ended acts on the group's presence (R43). -/
def GroupRx.classed (g : GroupRx) : GroupRx :=
  if g.present then
    if g.good then { g with hysteresis := 0 }
    else if 2 ≤ g.hysteresis + 1 then g.absent
    else { g with hysteresis := g.hysteresis + 1 }
  else if g.good then
    if 2 ≤ g.hysteresis + 1 then { g with present := true, hysteresis := 0, depth := 0 }
    else { g with hysteresis := g.hysteresis + 1 }
  else { g with hysteresis := 0 }

/-- The change of one group's presence as a source is reported to the table (R47). -/
def State.groupChange (before : LaneRx) (l : Fin 8) (s : State) (g : Fin 4) : State :=
  match before.groupPresent g, (s.rx.get l).groupPresent g with
  | true, false => s.sourcesLost (ofGroup l g)
  | false, true => s.sourcesBack (ofGroup l g)
  | _, _ => s

/-- Whether an event changed the receive state or the presence of any group (R37). -/
def LaneRx.changed (before after : LaneRx) : Bool :=
  before.state != after.state
    || [0, 1, 2, 3].any fun g => (before.groups.get g).present != (after.groups.get g).present

/-- A lane receiver changes in one event: the losses and returns of its sources go to the table, and one LANE_CHANGE is
reported when its state or any presence changed (R37, R47). -/
def State.changeRx (s : State) (l : Fin 8) (rx : LaneRx) : State :=
  (([0, 1, 2, 3].foldl (State.groupChange (s.rx.get l) l) (s.setRx l rx))).reportIf
    ((s.rx.get l).changed rx) .laneChange

/-! ### Switch lines (R33 to R37) -/

/-- The receiver at a switch line at the clock `now`, `cls` being the class of the frame it ends (R33 to R36). -/
def LaneRx.atSwitchLine (rx : LaneRx) (now : Nat) (cls : Option Format) : LaneRx :=
  let rx := { rx with lastLine := now, arrivingPhase := none }
  match rx.state with
  | .noSignal => { rx with state := .seeking, format := none, candidate := none, count := 0 }
  | .seeking =>
    let lock := countLock rx.candidate rx.count cls
    if lock.2 = 2 then
      { rx with state := .locked, format := lock.1, candidate := lock.1, count := lock.2
                groups := rx.groups.map GroupRx.clearMarks }
    else { rx with candidate := lock.1, count := lock.2 }
  | .locked =>
    if cls.isSome && cls = rx.format then
      { rx with groups := rx.groups.map fun g => g.classed.clearMarks }
    else
      let lock := countLock none 0 cls
      { rx with state := .seeking, format := none, candidate := lock.1, count := lock.2
                groups := rx.groups.map fun g => g.absent.clearMarks }

/-- The switch line is handed to the lane's transmitter, with the recognised format, none where the receiver leaves
LOCKED at it (R37, R135, R140). -/
def State.hand (s : State) (l : Fin 8) (format : Option Format) : State :=
  let tx := s.tx.get l
  s.setTx l { tx with handed := tx.handed ++ [⟨format, []⟩] }

/-- The class that a switch line gives the frame it ends; it ends none where it is the first of a feed (R33). -/
def LaneRx.classOf (rx : LaneRx) (lines period : Nat) : Option (Option Format) :=
  if rx.state = .noSignal then none else some (classify lines period)

/-- A switch line on lane `l`, at the clock: the receiver acts, then the transmitter and the reference unit are handed
what R37 hands them (R33 to R37; log 6). -/
def State.laneSwitchLine (s : State) (l : Fin 8) (lines : Nat) : State :=
  let rx := s.rx.get l
  let period := s.now - rx.lastLine
  let cls := classify lines period
  let received := s.changeRx l (rx.atSwitchLine s.now cls)
  let handed := if rx.state = .locked then received.hand l (received.rx.get l).format else received
  if s.ref.source = .lane l then handed.sourceSwitchLine (rx.classOf lines period) period else handed

/-- A feed is lost: NO_SIGNAL, the lock count and the format cleared, the groups of a LOCKED receiver ABSENT (R33, R36). -/
def LaneRx.lost (rx : LaneRx) : LaneRx :=
  { rx with
    state := .noSignal, format := none, candidate := none, count := 0, arrivingPhase := none
    groups := if rx.state = .locked then rx.groups.map fun g => g.absent.clearMarks else rx.groups }

/-- The lane's transmitter at a loss of the feed: what is still in its three-line delay does not come (log 9). -/
def LaneTx.feedLost (tx : LaneTx) : LaneTx := { tx with handed := [], passing := false, store := [] }

/-- The feed of lane `l` is lost, the clock standing at the loss (R33, R36, R37, R18). -/
def State.laneLoss (s : State) (l : Fin 8) : State :=
  let received := s.changeRx l (s.rx.get l).lost
  let cut := received.setTx l (received.tx.get l).feedLost
  if s.ref.source = .lane l then cut.sourceLoss else cut

/-! ### Packets (R38 to R41, R44) -/

/-- One arrival for a lane group: a sample into each channel's window, the depth and the table when the group is a
present source (R41, R45, R46, R48). -/
def State.laneArrival (l : Fin 8) (g : Fin 4) (s : State) (set : Bank Sample 4) : State :=
  let rx := s.rx.get l
  let group := rx.groups.get g
  let present := rx.groupPresent g
  let depth := if present then min (group.depth + 1) Config.windowSize else group.depth
  let windows := Bank.ofFn fun c => (group.windows.get c).push (set.get c)
  let written := s.setRx l { rx with groups := rx.groups.set g { group with windows := windows, depth := depth } }
  if present then written.arrival (ofGroup l g) depth else written

/-- Whether a receiver takes the packets of this arriving line: LOCKED, and a carriage line (R3, R38). -/
def LaneRx.takes (rx : LaneRx) (line : Nat) : Bool := rx.state = .locked && 3 ≤ line

/-- A damaged packet counts against the group its group field names, or else against all four (R40). -/
def LaneRx.damage (rx : LaneRx) (group : Option Byte) : LaneRx :=
  let mark (g : GroupRx) : GroupRx := { g with damagedSeen := true }
  { rx with groups :=
      match group.bind (readNumber 4) with
      | some g => rx.groups.modify g mark
      | none => rx.groups.map mark }

/-- A valid packet of group `g` is noted: its group, and the arriving phase if it is the frame's first (R40, R44). -/
def LaneRx.noteValid (rx : LaneRx) (g : Fin 4) (phase : Nat) : LaneRx :=
  { rx with
    arrivingPhase := some (rx.arrivingPhase.getD phase)
    groups := rx.groups.modify g fun group => { group with validSeen := true } }

/-- A valid packet is kept for its line's turn to be sent: with the newest handed switch line, or else with the frame in
progress where that passes the feed (R143; log 9). -/
def LaneTx.keep (tx : LaneTx) (p : TakenPacket) : LaneTx :=
  match tx.handed.reverse with
  | h :: earlier => { tx with handed := ({ h with packets := h.packets ++ [p] } :: earlier).reverse }
  | [] => if tx.mode = .follow && tx.passing then { tx with store := tx.store ++ [p] } else tx

/-- A packet is taken on lane `l` and judged (R38 to R41, R44). -/
def State.takePacket (s : State) (l : Fin 8) (line : Nat) (p : Packet) : State :=
  let rx := s.rx.get l
  match p.valid ((rx.format.map Format.cadence).getD 0), readNumber 4 p.group with
  | true, some g =>
    let noted := s.setRx l (rx.noteValid g p.phase.toNat)
    let arrived := p.sets.foldl (State.laneArrival l g) noted
    arrived.setTx l ((arrived.tx.get l).keep ⟨line, g, p.bytes⟩)
  | _, _ => s.setRx l (rx.damage (some p.group))

/-! ### The console link receiver (R49, R50) -/

/-- A console frame's samples are written into the windows (R50). -/
def ConsoleRx.write (c : ConsoleRx) (samples : Bank Sample 64) : ConsoleRx :=
  { c with windows := Bank.ofFn fun n => (c.windows.get n).push (samples.get n) }

/-- A console frame is taken (R49, R50). -/
def State.takeConsoleFrame (s : State) (bytes : List Byte) : State :=
  let c := s.console
  match c.up, framed bytes with
  | true, true =>
    let depth := min (c.depth + 1) Config.windowSize
    { s with console := { c.write (consoleSamples bytes) with count := 0, depth := depth } }.arrival ofConsole depth
  | true, false =>
    if c.count + 1 = 2 then
      { s with console := { c with up := false, count := 0, depth := 0 } }.sourcesLost ofConsole
    else { s with console := { c with count := c.count + 1 } }
  | false, true =>
    let c := c.write (consoleSamples bytes)
    if c.count + 1 = 2 then
      { s with console := { c with up := true, count := 0, depth := 0 } }.sourcesBack ofConsole
    else { s with console := { c with count := c.count + 1 } }
  | false, false => { s with console := { c with count := 0 } }

/-! ### The events -/

/-- LANE_SWITCH_LINE (R33 to R37, R42, R43; R18, R22 to R24 where the lane is the reference's source). -/
def execLaneSwitchLine (l : Fin 8) (lines after : Nat) (s : State) : Host.Outcome State Fault Refusal :=
  s.running fun s =>
    let s := s.elapse after
    State.reportReference s (s.laneSwitchLine l lines)

/-- LANE_FEED_LOST (R33, R36, R37; R22, R25): in NO_SIGNAL there is no feed to lose. -/
def execLaneFeedLost (l : Fin 8) (s : State) : Host.Outcome State Fault Refusal :=
  s.running fun s =>
    if (s.rx.get l).state = .noSignal then s
    else State.reportReference s ((s.reach ((s.rx.get l).lastLine + Config.lossTime)).laneLoss l)

/-- PACKET_TAKEN (R38 to R41, R44). -/
def execPacketTaken (l : Fin 8) (line : Nat) (bytes : List Byte) (s : State) : Host.Outcome State Fault Refusal :=
  s.running fun s =>
    match (s.rx.get l).takes line, search bytes with
    | true, .taken p => s.takePacket l line p
    | _, _ => s

/-- PACKET_CUT_OFF (R39, R40). -/
def execPacketCutOff (l : Fin 8) (line : Nat) (bytes : List Byte) (s : State) : Host.Outcome State Fault Refusal :=
  s.running fun s =>
    match (s.rx.get l).takes line, search bytes with
    | true, .cutOff group => s.setRx l ((s.rx.get l).damage group)
    | _, _ => s

/-- COUNT_FIELD_DAMAGED (R39, R40). -/
def execCountFieldDamaged (l : Fin 8) (line : Nat) (bytes : List Byte) (s : State) : Host.Outcome State Fault Refusal :=
  s.running fun s =>
    match (s.rx.get l).takes line, search bytes with
    | true, .countDamaged group => s.setRx l ((s.rx.get l).damage (some group))
    | _, _ => s

/-- CONSOLE_FRAME_TAKEN (R49, R50). -/
def execConsoleFrameTaken (bytes : List Byte) (s : State) : Host.Outcome State Fault Refusal :=
  s.running fun s => s.takeConsoleFrame bytes

end Sys2Proof.Machine
end

