-- ==== Sys2Proof/Machine/Commands.lean ====
section
/-! DEFINITION. What each command of the control port does when it executes: its checks from the field ranges on, its effect, its reply (spec 04, 05, 07, 08, 09, 10). -/

namespace Sys2Proof.Machine

/-! ### Identity, SETUP, ATTEND, RESTART (R118, R164, R165, R177 to R179) -/

/-- IDENTIFY (R177). -/
def State.doIdentify (s : State) : State := s.answer .identify .done Config.identity

/-- SETUP (R118, R165, R178). -/
def State.doSetup (params : List Byte) (s : State) : State :=
  match readSetup params with
  | none => s.refuse .setup .badField
  | some r => { s with
      gain := ⟨r.rampLength, r.rounding⟩
      attn := { s.attn with selectorA := r.selectorA, selectorB := r.selectorB, threshold := r.threshold }
    }.answer .setup .done []

/-- ATTEND (R164): the reply shows the requests as they stood before the clearing. -/
def State.doAttend (params : List Byte) (s : State) : State :=
  match readAttend params with
  | none => s.refuse .attend .badField
  | some (a, b) => { s with
      attn := { s.attn with requestA := s.attn.requestA && !a, requestB := s.attn.requestB && !b }
    }.answer .attend .done s.attentionRecord

/-- A lane transmitter after RESTART (R153). -/
def LaneTx.restart (tx : LaneTx) : LaneTx := { tx with groups := LaneSetting.reset, staged := none }

/-- RESTART (R179): the table emptied without a report, the groups PASS 24, the gain stage and the attention unit at
their starting values, the identity reply held. Lines already reached are drawn from the entries as they stood (R153). -/
def State.doRestart (s : State) : State :=
  let s := s.finishLines
  { s with
    table := Table.reset, tx := s.tx.map LaneTx.restart, gain := GainStage.reset, attn := Attention.reset
  }.answer .restart .done Config.identity

/-! ### Admission (R59 to R62) -/

/-- The record that an accepted ADMIT creates (R53, R61, R62), `R` being the device ramp length. -/
def AdmitRequest.track (r : AdmitRequest) (view : SourceView) (R : Nat) : Track :=
  let lost := view.absent r.source
  let target := if r.muted || lost then 0 else r.setGain
  { label := r.label, retiring := false, guarded := false, setGain := r.setGain, muted := r.muted
    inverted := r.inverted, rounding := r.rounding, source := r.source, pendingSource := none, sourceLost := lost
    gainNow := if R = 0 then target else 0
    ramp := if 0 < target && 0 < R then some ⟨0, r.setGain, R, 0⟩ else none
    slipped := false, clipped := false, entries := r.dests.map fun d => Entry.new d false }

/-- ADMIT, its resource checks in order: DUPLICATE, SET_FULL, OCCUPIED, NOT_EMBEDDING (R59 to R62). -/
def State.doAdmit (params : List Byte) (s : State) : State :=
  match readAdmit params with
  | none => s.refuse .admitTrack .badField
  | some r =>
    if (s.table.lookup r.label).isSome then s.refuse .admitTrack .duplicate
    else match s.table.emptyWay r.label with
      | none => s.answer .admitTrack .setFull [byteOf (setIndex r.label)]
      | some i =>
        if r.dests.any fun d => (s.table.ownerOf d).isSome then s.refuse .admitTrack .occupied
        else if r.dests.any fun d => !s.embeds d then s.refuse .admitTrack .notEmbedding
        else
          let table := (s.table.put i (some (r.track s.view s.gain.rampLength))).claim r.dests r.label
          (State.settle s { s with table := table }).answer .admitTrack .done [byteOf i]

/-! ### Reading (R68 to R70) -/

/-- FIND (R68, R69). -/
def State.doFind (params : List Byte) (s : State) : State :=
  match readLabelOnly params with
  | none => s.refuse .find .badField
  | some label =>
    match s.table.lookup label with
    | none => s.answer .find .noSuchTrack [byteOf (setIndex label), byteOf (s.table.waysOccupied label)]
    | some (i, t) => s.answer .find .done (t.record i)

/-- The label and the phase code that OWNER answers (R70). -/
def Table.ownerRecord (tab : Table) (d : Dest) : List Byte :=
  match tab.owning d with
  | none => bytes16 0 ++ [Phase.code .joining]
  | some (_, t, e) => bytes16 t.label ++ [e.phase.code]

/-- OWNER (R70). -/
def State.doOwner (params : List Byte) (s : State) : State :=
  match readOwner params with
  | none => s.refuse .owner .badField
  | some d => s.answer .owner .done (s.table.ownerRecord d)

/-! ### Commands on one track (R71, R84 to R95) -/

/-- The record after an accepted AMEND: every named item together, at most one change of target (R90, R91, R125 to
R127). -/
def Track.amended (t : Track) (r : AmendRequest) (view : SourceView) (R : Nat) : Track :=
  let items := { t with
    setGain := r.setGain.getD t.setGain, muted := r.muted.getD t.muted, inverted := r.inverted.getD t.inverted
    rounding := r.rounding.getD t.rounding
    slipped := t.slipped && !r.clearSlipped, clipped := t.clipped && !r.clearClipped }
  let changed := match r.source with
    | none => items
    | some src => if src = t.source then items else (items.stageSource src).completeChange view
  Track.regain t changed R

/-- AMEND, its state checks in order: RETIRING, GUARDED, PENDING (R89 to R91). -/
def State.doAmend (params : List Byte) (s : State) : State :=
  match readAmend params with
  | none => s.refuse .amend .badField
  | some r =>
    match s.table.lookup r.label with
    | none => s.refuse .amend .noSuchTrack
    | some (i, t) =>
      if t.retiring then s.refuse .amend .retiring
      else if t.guarded then s.refuse .amend .guarded
      else if r.source.isSome && t.pendingSource.isSome then s.refuse .amend .pending
      else
        let table := s.table.put i (some (t.amended r s.view s.gain.rampLength))
        (State.settle s { s with table := table }).answer .amend .done []

/-- The entry after a cancelled leave: the manner it left from (R85). -/
def Entry.stay (e : Entry) : Entry :=
  match e.phase with
  | .leaving .active => { e with phase := .active }
  | .leaving .filling => { e with phase := .filling }
  | _ => e

/-- ATTACH: the track's own destination, else the resource checks OCCUPIED, LIST_FULL, NOT_EMBEDDING (R84 to R86). -/
def State.doAttach (params : List Byte) (s : State) : State :=
  match readAttach params with
  | none => s.refuse .attach .badField
  | some (label, d) =>
    match s.table.lookup label with
    | none => s.refuse .attach .noSuchTrack
    | some (i, t) =>
      if t.retiring then s.refuse .attach .retiring
      else if (t.entryFor d).isSome then
        let table := s.table.put i (some (t.modifyEntry d Entry.stay))
        (State.settle s { s with table := table }).answer .attach .done []
      else if (s.table.ownerOf d).any (· ≠ label) then s.refuse .attach .occupied
      else if Config.listLimit ≤ t.entries.length then s.refuse .attach .listFull
      else if !s.embeds d then s.refuse .attach .notEmbedding
      else
        let t' := { t with entries := t.entries ++ [Entry.new d t.pendingSource.isSome] }
        (State.settle s { s with table := (s.table.put i (some t')).claim [d] label }).answer .attach .done []

/-- The entry after it begins to leave; a LEAVING one is not changed (R88, R94). -/
def Entry.leave (e : Entry) : Entry :=
  match e.phase with
  | .filling => { e with phase := .leaving .filling }
  | .active => { e with phase := .leaving .active }
  | _ => e

/-- DETACH: the state checks RETIRING, GUARDED, the resource check NOT_ATTACHED, then by the entry's phase (R87, R88). -/
def State.doDetach (params : List Byte) (s : State) : State :=
  match readAttach params with
  | none => s.refuse .detach .badField
  | some (label, d) =>
    match s.table.lookup label with
    | none => s.refuse .detach .noSuchTrack
    | some (i, t) =>
      if t.retiring then s.refuse .detach .retiring
      else if t.guarded then s.refuse .detach .guarded
      else match t.entryFor d with
        | none => s.refuse .detach .notAttached
        | some e =>
          let table :=
            if e.phase.isJoining then
              let t' := Track.regain t ((t.dropEntry d).completeChange s.view) s.gain.rampLength
              (s.table.put i (some t')).release [d]
            else s.table.put i (some (t.modifyEntry d Entry.leave))
          (State.settle s { s with table := table }).answer .detach .done []

/-- A track that retires: RETIRING, its JOINING entries removed, its FILLING and ACTIVE ones LEAVING (R94). -/
def Track.retire (t : Track) : Track :=
  { t with
    retiring := true
    entries := (t.entries.filter fun e => !e.phase.isJoining).map Entry.leave }

/-- The destinations of a track's JOINING entries. -/
def Track.joiningDests (t : Track) : List Dest := (t.entries.filter fun e => e.phase.isJoining).map (·.dest)

/-- RETIRE, its state checks in order: RETIRING, GUARDED, PENDING; the record is freed at once when its list is then
empty (R93 to R95). -/
def State.doRetire (params : List Byte) (s : State) : State :=
  match readLabelOnly params with
  | none => s.refuse .retire .badField
  | some label =>
    match s.table.lookup label with
    | none => s.refuse .retire .noSuchTrack
    | some (i, t) =>
      if t.retiring then s.refuse .retire .retiring
      else if t.guarded then s.refuse .retire .guarded
      else if t.pendingSource.isSome then s.refuse .retire .pending
      else
        let record := if t.retire.entries.isEmpty then none else some t.retire
        let table := (s.table.put i record).release t.joiningDests
        (State.settle s { s with table := table }).answer .retire .done []

/-- GUARD (R71). -/
def State.doGuard (params : List Byte) (s : State) : State :=
  match readGuard params with
  | none => s.refuse .guard .badField
  | some (label, on) =>
    match s.table.lookup label with
    | none => s.refuse .guard .noSuchTrack
    | some (i, t) =>
      if t.retiring then s.refuse .guard .retiring
      else { s with table := s.table.put i (some { t with guarded := on }) }.answer .guard .done []

/-! ### The survey (R154 to R157) -/

/-- The nine flags of a record, in the order of the pattern (R155). -/
def Track.flags (t : Track) : List Bool :=
  [t.guarded, t.muted, t.inverted, t.sourceLost, t.ramp.isSome,
   t.pendingSource.isSome || t.entries.any (fun e => e.phase.isJoining || e.phase.isLeaving),
   t.slipped, t.clipped, t.retiring]

/-- Whether a flag satisfies its selector (R155). -/
def Selector.admits : Selector → Bool → Bool
  | .either, _ => true
  | .clear, flag => !flag
  | .set, flag => flag

/-- Whether a source lies on a lane (R156). -/
def Source.onLane (l : Fin 8) : Source → Bool
  | .lane l' _ _ => l' = l
  | _ => false

/-- Whether a record satisfies the filter of lane `l`: a source or a destination of it lies there (R156). -/
def Track.touchesLane (t : Track) (l : Fin 8) : Bool :=
  t.source.onLane l || t.pendingSource.any (·.onLane l) || t.entries.any fun e => e.dest.onLane l

/-- Whether a record matches a survey (R157). -/
def SurveyRequest.admits (r : SurveyRequest) (t : Track) : Bool :=
  ((r.pattern.zip t.flags).all fun p => p.1.admits p.2) && r.filter.all t.touchesLane

/-- The slots from number `slot` on are examined, with `wanted` labels still wanted: the labels found and the next
cursor (R157). -/
def SurveyRequest.examine (r : SurveyRequest) : Nat → Nat → List (Option Track) → List Nat × Nat
  | _, _, [] => ([], 256)
  | slot, wanted, o :: rest =>
    match o with
    | none => r.examine (slot + 1) wanted rest
    | some t =>
      if r.admits t then
        if wanted ≤ 1 then ([t.label], slot + 1)
        else
          let page := r.examine (slot + 1) (wanted - 1) rest
          (t.label :: page.1, page.2)
      else r.examine (slot + 1) wanted rest

/-- The page of a survey (R157). -/
def SurveyRequest.page (r : SurveyRequest) (tab : Table) : List Nat × Nat :=
  r.examine r.cursor r.maximum (tab.slots.cells.drop r.cursor)

/-- The reply of a survey: count, labels, next cursor (R157). -/
def surveyRecord (page : List Nat × Nat) : List Byte :=
  byteOf page.1.length :: page.1.flatMap bytes16 ++ bytes16 page.2

/-- SURVEY (R154 to R157). -/
def State.doSurvey (params : List Byte) (s : State) : State :=
  match readSurvey params with
  | none => s.refuse .survey .badField
  | some r => s.answer .survey .done (surveyRecord (r.page s.table))

/-! ### Emptying the table (R72) -/

/-- PURGE (R72): every record and entry removed, the map empty, the counts reported as they change. Lines already reached
are drawn from the entries as they stood (R153). -/
def State.doPurge (s : State) : State :=
  let s := s.finishLines
  (State.reportTable s { s with table := { Table.reset with staged := s.stagedLanes } }).answer .purge .done []

/-! ### Lanes (R147 to R151) -/

/-- Whether a setting would move an EMBED group with owned channels away from EMBED (R148). -/
def State.groupInUse (s : State) (l : Fin 8) (setting : LaneSetting) : Bool :=
  [0, 1, 2, 3].any fun g =>
    ((s.tx.get l).groups.get g).disposition = .embed && (setting.get g).disposition != .embed
      && 0 < s.ownedChannels l g

/-- LANE (R147 to R149). -/
def State.doLane (params : List Byte) (s : State) : State :=
  match readLane params with
  | none => s.refuse .lane .badField
  | some (l, setting) =>
    if s.groupInUse l setting then s.refuse .lane .groupInUse
    else (State.settle s (s.setTx l { s.tx.get l with staged := some setting })).answer .lane .done []

/-- LANE QUERY (R151). -/
def State.doLaneQuery (params : List Byte) (s : State) : State :=
  match readLaneQuery params with
  | none => s.refuse .laneQuery .badField
  | some l => s.answer .laneQuery .done (s.laneRecord l)

/-! ### The reference (R29 to R31) -/

/-- REFERENCE (R30): the reply shows the unit after the command. -/
def State.doReference (params : List Byte) (s : State) : State :=
  match readReference params with
  | none => s.refuse .reference .badField
  | some (source, freeRun) =>
    let set := s.setReference source freeRun
    set.answer .reference .done set.ref.record

/-- REFERENCE QUERY (R31). -/
def State.doReferenceQuery (s : State) : State := s.answer .referenceQuery .done s.ref.record

/-- ALIGN (R29). -/
def State.doAlign (s : State) : State := (s.withRef { s.ref with align := true }).answer .align .done []

/-! ### A whole frame (R171, R175) -/

/-- A command executes with its parameter bytes; those without fields execute with any (R172, R175). -/
def State.perform (c : Command) (params : List Byte) (s : State) : State :=
  match c with
  | .identify => s.doIdentify
  | .restart => s.doRestart
  | .setup => s.doSetup params
  | .attend => s.doAttend params
  | .admitTrack => s.doAdmit params
  | .find => s.doFind params
  | .owner => s.doOwner params
  | .amend => s.doAmend params
  | .attach => s.doAttach params
  | .detach => s.doDetach params
  | .retire => s.doRetire params
  | .guard => s.doGuard params
  | .survey => s.doSurvey params
  | .purge => s.doPurge
  | .lane => s.doLane params
  | .laneQuery => s.doLaneQuery params
  | .reference => s.doReference params
  | .referenceQuery => s.doReferenceQuery
  | .align => s.doAlign

end Sys2Proof.Machine
end

