-- ==== Sys2Proof/Machine/Port.lean ====
section
/-! DEFINITION. The control port and the reset line: transactions, frames, and the meaning of each command as a row of the table (spec 10). -/

namespace Sys2Proof.Machine

/-! ### Transactions (R167 to R170) -/

/-- The transaction ends: the outgoing copy and the frame in progress are empty, data out carries nothing (R167, R168). -/
def Port.close (p : Port) : Port :=
  { p with opened := false, outgoing := [], shifted := 0, frame := [], bits := [], dataOut := none }

/-- The held reply is copied out and the frame in progress starts empty (R168). DESIGN CHOICE (log 11): so also where a
transaction is already open, which the spec does not provide for. -/
def Port.open (p : Port) : Port :=
  { p with opened := true, outgoing := p.held.bytes, shifted := 0, frame := [], bits := [], dataOut := none }

/-- Whether a frame in progress takes a further byte: it is not yet whole, and does not announce more than 60 parameter
bytes (R171, R173). -/
def frameOpen : List Byte → Bool
  | _ :: n :: params => n.toNat ≤ Config.maxParams && params.length < n.toNat
  | _ => true

/-- A byte received: fill before the first frame byte, else a frame byte, ignored once the frame is whole (R170, R171). -/
def Port.receive (p : Port) (b : Byte) : List Byte :=
  if p.frame = [] && b = 0xFF then []
  else if frameOpen p.frame then p.frame ++ [b] else p.frame

/-- A byte moves each way: one of the outgoing copy, 00hex beyond its end, against one received (R168). -/
def Port.shift (p : Port) (b : Byte) : Port :=
  { p with
    dataOut := some (p.outgoing.getD p.shifted 0)
    shifted := min (p.shifted + 1) p.outgoing.length
    frame := p.receive b }

/-- The byte that eight bits make, most significant bit first (R168). -/
def byteOfBits (bits : List Bool) : Byte := byteOf (bits.foldl (fun n b => 2 * n + b.toNat) 0)

/-- The eight bits of a byte as the port clocks them, most significant bit first (R168). -/
def bitsOf (b : Byte) : List Bool := [7, 6, 5, 4, 3, 2, 1, 0].map b.getLsbD

/-- One clock of the port takes one bit; the eighth of a byte moves the byte each way (R167, R168). -/
def Port.clock (p : Port) (bit : Bool) : Port :=
  if p.bits.length = 7 then { p.shift (byteOfBits (p.bits ++ [bit])) with bits := [] }
  else { p with bits := p.bits ++ [bit] }

/-! ### Frames at the release of select (R169, R171 to R173, R175) -/

/-- A reply refused before a command is known (R173, R175). -/
def State.refuseFrame (s : State) (code : Byte) (r : Result) : State :=
  { s with port := { s.port with held := ⟨code, r, []⟩ } }

/-- A whole frame passes the code step and executes (R171, R175). -/
def State.executeFrame (s : State) (code : Byte) (params : List Byte) : State :=
  match Command.ofCode code with
  | none => s.refuseFrame code .unknownCommand
  | some c => s.perform c params

/-- The frame in progress is judged: none, truncated, or whole (R169, R170, R173). -/
def State.judgeFrame (s : State) : List Byte → State
  | [] => s
  | [code] => s.refuseFrame code .truncated
  | code :: n :: params =>
    if n.toNat ≤ Config.maxParams && params.length = n.toNat then s.executeFrame code params
    else s.refuseFrame code .truncated

/-- The transaction in progress ends. -/
def State.closePort (s : State) : State := { s with port := s.port.close }

/-- A whole frame of one command executes at the release of select, which ends the transaction (R167, R169); one that
would announce more than 60 parameter bytes is truncated (R173). `effect` is the command's own. DESIGN CHOICE (log 12):
the row stands for the whole transaction's end, so it executes whether or not a transaction is open and whatever frame
stands in progress, which it drops. -/
def State.wholeFrame (s : State) (c : Command) (params : List Byte) (effect : State → State) : State :=
  if Config.maxParams < params.length then s.closePort.refuse c .truncated else effect s.closePort

/-! ### The rows of the port -/

/-- RESET_ASSERTED (R180): every block halts, an open transaction is abandoned. -/
def execResetAsserted (s : State) : Host.Outcome State Fault Refusal :=
  .next { s with resetHeld := true, port := s.port.close }

/-- RESET_RELEASED (R180): every block takes its power-on values. -/
def execResetReleased (s : State) : Host.Outcome State Fault Refusal :=
  .next { State.reset with pending := s.pending }

/-- SELECT_ASSERTED (R168). Inside an open transaction it acts alike (log 11). -/
def execSelectAsserted (s : State) : Host.Outcome State Fault Refusal :=
  s.running fun s => { s with port := s.port.open }

/-- SELECT_RELEASED (R169): the bits of an unfinished byte, standing or clocked in since, are disregarded; without a
transaction nothing is judged. -/
def execSelectReleased (after : Nat) (_bits : List Bool) (s : State) : Host.Outcome State Fault Refusal :=
  s.running fun s =>
    let s := s.elapse after
    if s.port.opened then s.closePort.judgeFrame s.port.frame else s

/-- PORT_BYTE_SHIFTED (R168, R170, R171): only while a transaction is in progress. -/
def execPortByteShifted (bits : List Bool) (s : State) : Host.Outcome State Fault Refusal :=
  s.running fun s => if s.port.opened then { s with port := bits.foldl Port.clock s.port } else s

/-! ### The rows of the commands: each a whole frame of that command at the release of select -/

/-- IDENTIFY (R177). -/
def execIdentify (params : List Byte) (s : State) : Host.Outcome State Fault Refusal :=
  s.running fun s => s.wholeFrame .identify params State.doIdentify

/-- RESTART (R179). -/
def execRestart (params : List Byte) (s : State) : Host.Outcome State Fault Refusal :=
  s.running fun s => s.wholeFrame .restart params State.doRestart

/-- SETUP (R118, R165). -/
def execSetup (params : List Byte) (s : State) : Host.Outcome State Fault Refusal :=
  s.running fun s => s.wholeFrame .setup params (State.doSetup params)

/-- ATTEND (R164). -/
def execAttend (params : List Byte) (s : State) : Host.Outcome State Fault Refusal :=
  s.running fun s => s.wholeFrame .attend params (State.doAttend params)

/-- ADMIT (R59 to R62). -/
def execAdmit (params : List Byte) (s : State) : Host.Outcome State Fault Refusal :=
  s.running fun s => s.wholeFrame .admitTrack params (State.doAdmit params)

/-- FIND (R68, R69). -/
def execFind (params : List Byte) (s : State) : Host.Outcome State Fault Refusal :=
  s.running fun s => s.wholeFrame .find params (State.doFind params)

/-- OWNER (R70). -/
def execOwner (params : List Byte) (s : State) : Host.Outcome State Fault Refusal :=
  s.running fun s => s.wholeFrame .owner params (State.doOwner params)

/-- AMEND (R89 to R91, R125 to R127). -/
def execAmend (params : List Byte) (s : State) : Host.Outcome State Fault Refusal :=
  s.running fun s => s.wholeFrame .amend params (State.doAmend params)

/-- ATTACH (R84 to R86). -/
def execAttach (params : List Byte) (s : State) : Host.Outcome State Fault Refusal :=
  s.running fun s => s.wholeFrame .attach params (State.doAttach params)

/-- DETACH (R87, R88). -/
def execDetach (params : List Byte) (s : State) : Host.Outcome State Fault Refusal :=
  s.running fun s => s.wholeFrame .detach params (State.doDetach params)

/-- RETIRE (R93 to R95). -/
def execRetire (params : List Byte) (s : State) : Host.Outcome State Fault Refusal :=
  s.running fun s => s.wholeFrame .retire params (State.doRetire params)

/-- GUARD (R71). -/
def execGuard (params : List Byte) (s : State) : Host.Outcome State Fault Refusal :=
  s.running fun s => s.wholeFrame .guard params (State.doGuard params)

/-- SURVEY (R154 to R157). -/
def execSurvey (params : List Byte) (s : State) : Host.Outcome State Fault Refusal :=
  s.running fun s => s.wholeFrame .survey params (State.doSurvey params)

/-- PURGE (R72). -/
def execPurge (params : List Byte) (s : State) : Host.Outcome State Fault Refusal :=
  s.running fun s => s.wholeFrame .purge params State.doPurge

/-- LANE (R147 to R149). -/
def execLane (params : List Byte) (s : State) : Host.Outcome State Fault Refusal :=
  s.running fun s => s.wholeFrame .lane params (State.doLane params)

/-- LANE QUERY (R151). -/
def execLaneQuery (params : List Byte) (s : State) : Host.Outcome State Fault Refusal :=
  s.running fun s => s.wholeFrame .laneQuery params (State.doLaneQuery params)

/-- REFERENCE (R30). -/
def execReference (params : List Byte) (s : State) : Host.Outcome State Fault Refusal :=
  s.running fun s => s.wholeFrame .reference params (State.doReference params)

/-- REFERENCE QUERY (R31). -/
def execReferenceQuery (params : List Byte) (s : State) : Host.Outcome State Fault Refusal :=
  s.running fun s => s.wholeFrame .referenceQuery params State.doReferenceQuery

/-- ALIGN (R29). -/
def execAlign (params : List Byte) (s : State) : Host.Outcome State Fault Refusal :=
  s.running fun s => s.wholeFrame .align params State.doAlign

end Sys2Proof.Machine
end

