-- ==== Sys2Proof/Machine/Dispatch.lean ====
section
/-! DEFINITION. One arm per command: each calls its meaning. -/

namespace Sys2Proof.Machine

def exec (i : Instr) (s : State) : Host.Outcome State Fault Refusal :=
  match i with
  | .resetAsserted => Sys2Proof.Machine.execResetAsserted s
  | .resetReleased => Sys2Proof.Machine.execResetReleased s
  | .selectAsserted => Sys2Proof.Machine.execSelectAsserted s
  | .selectReleased after bits => Sys2Proof.Machine.execSelectReleased after bits s
  | .identify params => Sys2Proof.Machine.execIdentify params s
  | .restart params => Sys2Proof.Machine.execRestart params s
  | .setup params => Sys2Proof.Machine.execSetup params s
  | .attend params => Sys2Proof.Machine.execAttend params s
  | .admitTrack params => Sys2Proof.Machine.execAdmit params s
  | .find params => Sys2Proof.Machine.execFind params s
  | .owner params => Sys2Proof.Machine.execOwner params s
  | .amend params => Sys2Proof.Machine.execAmend params s
  | .attach params => Sys2Proof.Machine.execAttach params s
  | .detach params => Sys2Proof.Machine.execDetach params s
  | .retire params => Sys2Proof.Machine.execRetire params s
  | .guard params => Sys2Proof.Machine.execGuard params s
  | .survey params => Sys2Proof.Machine.execSurvey params s
  | .purge params => Sys2Proof.Machine.execPurge params s
  | .lane params => Sys2Proof.Machine.execLane params s
  | .laneQuery params => Sys2Proof.Machine.execLaneQuery params s
  | .reference params => Sys2Proof.Machine.execReference params s
  | .referenceQuery params => Sys2Proof.Machine.execReferenceQuery params s
  | .align params => Sys2Proof.Machine.execAlign params s
  | .houseSwitchLine lines after => Sys2Proof.Machine.execHouseSwitchLine lines after s
  | .houseLost => Sys2Proof.Machine.execHouseLost s
  | .referenceFrameStart => Sys2Proof.Machine.execReferenceFrameStart s
  | .referenceSampleInstant early => Sys2Proof.Machine.execReferenceSampleInstant early s
  | .rampReachesTarget label => Sys2Proof.Machine.execRampReachesTarget label s
  | .consoleFrameTaken bytes => Sys2Proof.Machine.execConsoleFrameTaken bytes s
  | .laneSwitchLine lane lines after => Sys2Proof.Machine.execLaneSwitchLine lane lines after s
  | .laneFeedLost lane => Sys2Proof.Machine.execLaneFeedLost lane s
  | .packetTaken lane line bytes => Sys2Proof.Machine.execPacketTaken lane line bytes s
  | .packetCutOff lane line bytes => Sys2Proof.Machine.execPacketCutOff lane line bytes s
  | .outgoingFrameStart lane => Sys2Proof.Machine.execOutgoingFrameStart lane s
  | .lineReached lane line => Sys2Proof.Machine.execLineReached lane line s
  | .flatLineReached lane line => Sys2Proof.Machine.execFlatLineReached lane line s
  | .portByteShifted bits => Sys2Proof.Machine.execPortByteShifted bits s
  | .countFieldDamaged lane line bytes => Sys2Proof.Machine.execCountFieldDamaged lane line bytes s

end Sys2Proof.Machine
end

