-- ==== Sys2Proof/Safety.lean ====
section
/-! DEFINITION. What the statements call a good state: the spec's laws on tracks, entries, the table, the receivers and the counts (R34, R46, R56, R63, R65, R66, R92, R96, R114, R124, R146). -/

namespace Sys2Proof.Machine

/-- A record stands in slot `i`. -/
def Table.holds (tab : Table) (i : Fin 256) (t : Track) : Prop := tab.slots.get i = some t

/-- Every record of the table satisfies `p`. -/
def Table.Every (tab : Table) (p : Track → Prop) : Prop := ∀ i t, tab.holds i t → p t

/-! ### Laws on one record -/

/-- The law on lag, for one record (R114). -/
def Track.LagLaw (t : Track) : Prop :=
  ∀ e ∈ t.entries, e.lag ≤ 16 ∧ (e.phase.manner ≠ some .active → e.lag = 0) ∧ (t.effective e = .none → e.lag = 0)

/-- The law on gain, for one record (R124); the elapsed instants lie below the length (R115). -/
def Track.GainLaw (t : Track) : Prop :=
  (∀ r, t.ramp = some r → r.target = t.target ∧ r.elapsed < r.length ∧
      min r.start r.target ≤ t.gainNow ∧ t.gainNow ≤ max r.start r.target)
  ∧ (t.ramp = none → t.gainNow = t.target)
  ∧ (t.sourceLost = true → t.gainNow = 0 ∧ t.ramp = none)

/-- The law on staged source changes, for one record (R78, R92). -/
def Track.ChangeLaw (t : Track) : Prop :=
  (t.pendingSource.isSome → (∃ e ∈ t.entries, e.taken = false) ∧ ∀ e ∈ t.entries, e.phase = .joining → e.taken = true)
  ∧ (t.pendingSource = none → ∀ e ∈ t.entries, e.taken = false)

/-- The law on retiring tracks (R71, R96): no pending source, every entry LEAVING, not guarded. -/
def Track.RetiringLaw (t : Track) : Prop :=
  t.retiring = true → t.pendingSource = none ∧ t.guarded = false ∧ ∀ e ∈ t.entries, e.phase.isLeaving = true

/-- A destination list (R54): at most 8 entries, no two for one destination. -/
def Track.ListLaw (t : Track) : Prop := t.entries.length ≤ 8 ∧ (t.entries.map (·.dest)).Nodup

/-! ### Laws on the table -/

/-- Placement (R56): every record lies in its label's set, and no two carry one label. -/
def Table.PlacementLaw (tab : Table) : Prop :=
  (∀ i t, tab.holds i t → i ∈ waysOf t.label) ∧
  ∀ i j t u, tab.holds i t → tab.holds j u → t.label = u.label → i = j

/-- The map law (R63): the map names track t for destination d exactly when t's list holds an entry for d. -/
def Table.MapLaw (tab : Table) : Prop :=
  ∀ d label, tab.ownerOf d = some label ↔ ∃ i t, tab.holds i t ∧ t.label = label ∧ ∃ e ∈ t.entries, e.dest = d

/-- The counts (R65, R66): the occupancy is the number of records and the staged-item count that of staged items. -/
def State.CountLaw (s : State) : Prop := s.table.occupancy = s.table.records ∧ s.table.staged = s.stagedItems

/-- The table's law: lists, placement and map together (R54, R56, R63). -/
def Table.Sound (tab : Table) : Prop := tab.Every Track.ListLaw ∧ tab.PlacementLaw ∧ tab.MapLaw

/-- The law on EMBED groups (R146), with the staged settings that would end them (R60, R86, R148). -/
def State.EmbedLaw (s : State) : Prop :=
  ∀ i t, s.table.holds i t → ∀ e ∈ t.entries, s.embeds e.dest = true

/-! ### Laws on the receivers -/

/-- A lane receiver's bounds (R15, R32, R34, R36, R43, R46): only a LOCKED receiver has a format, an arriving phase or a
present group; hysteresis counts stand at 0 or 1; a group that is not present has depth 0; depths go to 16. -/
def LaneRx.Sound (rx : LaneRx) : Prop :=
  (rx.state ≠ .locked → rx.format = none ∧ rx.arrivingPhase = none) ∧
  (rx.state = .locked → rx.format.isSome) ∧
  rx.count ≤ 2 ∧ (rx.state = .seeking → rx.count ≤ 1) ∧
  (∀ f p, rx.format = some f → rx.arrivingPhase = some p → p < f.cadence) ∧
  ∀ g, (rx.groups.get g).hysteresis ≤ 1 ∧ (rx.groups.get g).depth ≤ 16 ∧
    ((rx.groups.get g).present = false → (rx.groups.get g).depth = 0) ∧
    (rx.state ≠ .locked → (rx.groups.get g).present = false ∧ (rx.groups.get g).hysteresis = 0)

/-- The console link receiver's bounds (R49). -/
def ConsoleRx.Sound (c : ConsoleRx) : Prop :=
  c.count ≤ 1 ∧ c.depth ≤ 16 ∧ (c.up = false → c.depth = 0)

/-- The reference unit's bounds (R5, R16, R22, R23, R27, R31): the phase is one of its format, the lock count stands at 2
in LOCKED, with the reference format as candidate, and below 2 elsewhere; no candidate goes with count 0. In LOCKED and
in HOLDOVER the frame in progress runs, and its instants are spaced, at the period in force (R21, R24, R27). -/
def RefUnit.Sound (r : RefUnit) : Prop :=
  r.phase < r.format.cadence ∧ r.emitted ≤ r.format.samples r.phase ∧
  (r.state = .locked → r.count = 2 ∧ r.candidate = some r.format) ∧
  (r.state ≠ .locked → r.count ≤ 1) ∧ (r.candidate = none ↔ r.count = 0) ∧
  (r.state = .locked → r.frameLength = r.lockedPeriod ∧ r.pace = r.lockedPeriod) ∧
  (r.state = .holdover → r.frameLength = r.holdover ∧ r.pace = r.holdover)

/-- The attention unit's and the gain stage's bounds (R117, R159). -/
def State.SettingsLaw (s : State) : Prop := s.gain.rampLength ≤ 4096 ∧ s.attn.threshold ≤ 256

/-- Every lane receiver keeps its bounds. -/
def State.LanesSound (s : State) : Prop := ∀ l, (s.rx.get l).Sound

/-- The port: a frame in progress never holds more bytes than it announces (R171), fewer than eight bits stand for the
byte not yet complete (R167), and with no transaction in progress nothing stands in it (R167). -/
def Port.Sound (p : Port) : Prop :=
  (∀ code n params, p.frame = code :: n :: params → params.length ≤ n.toNat) ∧
  p.shifted ≤ p.outgoing.length ∧ p.bits.length < 8 ∧
  (p.opened = false → p.outgoing = [] ∧ p.frame = [] ∧ p.bits = [] ∧ p.dataOut = none)

/-! ### What the parameters of an AMEND hold -/

/-- The bytes that one item of an AMEND takes and the value read from them: those of its field where the mask names it,
else none (R89). -/
def itemHeld (named : Bool) (bytes : List Byte) (value : Option α) (field : List Byte → α → Prop) : Prop :=
  if named then ∃ x, field bytes x ∧ value = some x else bytes = [] ∧ value = none

/-! ### What lines draw, and what events report -/

/-- The destinations drawn for one group's packet of `k` sample sets, in the order of the packet (R144). -/
def packetDests (l : Fin 8) (g : Fin 4) (k : Nat) : List Dest :=
  (List.replicate k [Dest.lane l g 0, Dest.lane l g 1, Dest.lane l g 2, Dest.lane l g 3]).flatten

/-- The packets that groups of lane `l` build with nothing between their draws, `k` sample sets each, and the part after
their draws (R144, R145). -/
def State.buildGroups (s : State) (l : Fin 8) (k : Nat) : List (Fin 4) → List (List Byte) × State
  | [] => ([], s)
  | g :: gs =>
    let word := ((s.tx.get l).groups.get g).word
    let drawn := s.draws word (packetDests l g k)
    let others := drawn.2.buildGroups l k gs
    (buildPacket g (s.tx.get l).phase k word drawn.1 :: others.1, others.2)

/-- Some record that stands in both tables has newly lost its source (R160). -/
def Table.NewlyLost (before after : Table) : Prop :=
  ∃ i v u, before.holds i v ∧ after.holds i u ∧ v.sourceLost = false ∧ u.sourceLost = true

/-- The attention unit goes from `before` to `after` by the report of an occurrence of kind `o` exactly when it falls
(R160, R161). -/
def Attention.Reports (before after : Attention) (o : Occurrence) (falls : Prop) : Prop :=
  ∃ b : Bool, (b = true ↔ falls) ∧ after = before.reportIf b o

/-- The reports of one event that took the table from `s` to `t`: SOURCE_LOST for tracks newly lost, SWITCHES_DONE when
the staged items fell to 0, and the change of the occupancy (R65, R67, R82, R83). -/
def Attention.ReportsTable (before after : Attention) (s t : Table) : Prop :=
  ∃ a, before.Reports a .sourceLost (s.NewlyLost t) ∧
    after = (a.reportIf (0 < s.staged && t.staged = 0) .switchesDone).reportOccupancy s.occupancy t.occupancy

/-! ### Events and runs -/

/-- The row of the table that a command of the control port is. -/
def Command.row : Command → List Byte → Instr
  | .identify => .identify
  | .restart => .restart
  | .setup => .setup
  | .attend => .attend
  | .admitTrack => .admitTrack
  | .find => .find
  | .owner => .owner
  | .amend => .amend
  | .attach => .attach
  | .detach => .detach
  | .retire => .retire
  | .guard => .guard
  | .survey => .survey
  | .purge => .purge
  | .lane => .lane
  | .laneQuery => .laneQuery
  | .reference => .reference
  | .referenceQuery => .referenceQuery
  | .align => .align

/-- The rows that are events of the feeds, the reference, the ramps, the transmitters and the console (spec 00 section 2:
they carry signal and are not ways of control). -/
def isSignal : Instr → Bool
  | .houseSwitchLine .. | .houseLost | .referenceFrameStart | .referenceSampleInstant .. | .rampReachesTarget ..
  | .consoleFrameTaken .. | .laneSwitchLine .. | .laneFeedLost .. | .packetTaken .. | .packetCutOff ..
  | .outgoingFrameStart .. | .lineReached .. | .flatLineReached .. | .countFieldDamaged .. => true
  | .resetAsserted | .resetReleased | .selectAsserted | .selectReleased .. | .portByteShifted ..
  | .identify .. | .restart .. | .setup .. | .attend .. | .admitTrack .. | .find .. | .owner .. | .amend .. | .attach ..
  | .detach .. | .retire .. | .guard .. | .survey .. | .purge .. | .lane .. | .laneQuery .. | .reference ..
  | .referenceQuery .. | .align .. => false

/-- The events run one after another, each from the state that the one before it left. -/
def Runs : List Instr → State → State → Prop
  | [], s, t => t = s
  | c :: cs, s, t => ∃ u, exec c s = .next u ∧ Runs cs u t

/-- A reply of the part takes the place of the held one as the transaction of its command ends (R167, R174). -/
def State.replied (s : State) (c : Command) (r : Result) (data : List Byte) : State :=
  { s with port := ⟨⟨c.code, r, data⟩, false, [], 0, [], [], none⟩ }

/-- Whether a port takes frames at all: the reset line is released (R180) and the frame fits the port (R171). A row acts
alike without a transaction open (log 12). -/
def State.takes (s : State) (params : List Byte) : Prop := s.resetHeld = false ∧ params.length ≤ 60

end Sys2Proof.Machine
end

