-- ==== Sys2Proof/Certificates/Slice0/Obligations.lean ====
section
/-! DEFINITION. The statements for the provers. -/

open Sys2Proof Sys2Proof.Machine

/-- A step runs the command at the front of the queue. Rests in part on the model's choices: log 2. -/
def Obligations.StepRunsTheFrontCommand : Prop :=
  (∀ (s : State) (c : Instr) (rest : List Instr), s.pending = c :: rest → step s = exec c { s with pending := rest })
  ∧ ∀ s : State, s.pending = [] → step s = .next s

/-- Every command of the block goes on to a next state and leaves the queue as it found it. -/
def Obligations.EveryCommandGoesOn : Prop :=
  ∀ (c : Instr) (s : State), ∃ t, exec c s = .next t ∧ t.pending = s.pending

/-- Feeds, reference and console change no setting, no reply and clear no request (R117, R164, R167). -/
def Obligations.SignalsAreNoWaysOfControl : Prop :=
  ∀ (c : Instr) (s t : State), isSignal c = true → exec c s = .next t →
    t.resetHeld = s.resetHeld ∧ t.gain = s.gain ∧ t.port = s.port ∧ t.attn.selectorA = s.attn.selectorA ∧
    t.attn.selectorB = s.attn.selectorB ∧ t.attn.threshold = s.attn.threshold ∧
    (s.attn.requestA = true → t.attn.requestA = true) ∧ (s.attn.requestB = true → t.attn.requestB = true)

/-- The reset line: nothing runs while it is asserted, its release gives every block its power-on values (R180, R16,
R32, R49, R52, R117, R134, R159, R167). Rests in part on the model's choices: log 3, log 14. -/
def Obligations.ResetLine : Prop :=
  (∀ (c : Instr) (s : State), s.resetHeld = true → c ≠ .resetAsserted → c ≠ .resetReleased → exec c s = .next s)
  ∧ (∀ s : State, exec .resetAsserted s =
      .next { s with resetHeld := true, port := ⟨s.port.held, false, [], 0, [], [], none⟩ })
  ∧ ∀ s : State, ∃ t, exec .resetReleased s = .next t ∧ t.pending = s.pending ∧ t.resetHeld = false ∧
      (t.ref.source = .house ∧ t.ref.state = .holdover ∧ t.ref.format = .p1 ∧ t.ref.phase = 0 ∧ t.ref.align = false ∧
        t.ref.freeRun = .p1 ∧ t.ref.holdover = 1920 * Config.unitsPerSample ∧ t.ref.candidate = none ∧ t.ref.count = 0 ∧
        t.ref.present = true ∧ t.ref.lastLine = t.now ∧ t.ref.counted = false ∧ t.ref.frameStart = t.now ∧
        t.ref.emitted = 0 ∧ t.ref.owed = false) ∧
      (∀ l, (t.rx.get l).state = .noSignal ∧ (t.rx.get l).format = none ∧ (t.rx.get l).candidate = none ∧
        (t.rx.get l).count = 0 ∧ (t.rx.get l).arrivingPhase = none ∧
        ∀ g, ((t.rx.get l).groups.get g).present = false ∧ ((t.rx.get l).groups.get g).hysteresis = 0 ∧
          ((t.rx.get l).groups.get g).depth = 0 ∧ ∀ c i, (((t.rx.get l).groups.get g).windows.get c).get i = 0) ∧
      (t.console.up = false ∧ t.console.count = 0 ∧ t.console.depth = 0 ∧ ∀ n i, (t.console.windows.get n).get i = 0) ∧
      ((∀ i, t.table.slots.get i = none) ∧ (∀ d, t.table.ownerOf d = none) ∧ t.table.occupancy = 0 ∧
        t.table.staged = 0) ∧
      t.gain = ⟨480, .nearestEven⟩ ∧
      (∀ l, (t.tx.get l).mode = .fallback ∧ (t.tx.get l).format = .p1 ∧ (t.tx.get l).phase = 0 ∧
        (t.tx.get l).plan = ⟨1920, 1123⟩ ∧ (t.tx.get l).lines = 0 ∧ (t.tx.get l).line = none ∧ (t.tx.get l).staged = none ∧
        ∀ g, (t.tx.get l).groups.get g = ⟨.pass, .w24⟩) ∧
      t.attn = ⟨none, .none, 256, true, false⟩ ∧ t.attentionLine = true ∧
      t.port.held = ⟨0, .done, [0x8C, 0x56, 1, 8, 64, 4, 64]⟩ ∧ t.port.opened = false ∧ t.port.outgoing = [] ∧
      t.port.frame = [] ∧ t.port.bits = [] ∧
      ∃ u, exec .selectAsserted t = .next u ∧ u.port.outgoing = [0, 0, 7, 0x8C, 0x56, 1, 8, 64, 4, 64]

/-- SELECT_ASSERTED copies the held reply out; the eighth bit of a byte moves one byte each way in a transaction
(R167, R168, R170, R171). Rests in part on the model's choices: log 11, log 13. -/
def Obligations.PortOpensAndShifts : Prop :=
  (∀ s : State, s.resetHeld = false → exec .selectAsserted s = .next { s with port :=
    ⟨s.port.held, true, s.port.held.code :: s.port.held.result.code :: byteOf s.port.held.data.length :: s.port.held.data,
      0, [], [], none⟩ })
  ∧ (∀ (s : State) (x y : List Bool), s.resetHeld = false → exec (.portByteShifted []) s = .next s ∧
    ∃ u, exec (.portByteShifted x) s = .next u ∧ exec (.portByteShifted (x ++ y)) s = exec (.portByteShifted y) u)
  ∧ ∀ s : State, s.resetHeld = false →
    (s.port.opened = false → ∀ bits, exec (.portByteShifted bits) s = .next s) ∧
    (s.port.opened = true → ∀ x, s.port.bits.length < 7 → exec (.portByteShifted [x]) s =
      .next { s with port := { s.port with bits := s.port.bits ++ [x] } }) ∧
    (s.port.opened = true → ∀ (b : Byte) (k : Nat), k < 8 →
      let bits := [b.getLsbD 7, b.getLsbD 6, b.getLsbD 5, b.getLsbD 4, b.getLsbD 3, b.getLsbD 2, b.getLsbD 1, b.getLsbD 0]
      s.port.bits = bits.take k → exec (.portByteShifted (bits.drop k)) s = .next { s with port := { s.port with
        dataOut := some (s.port.outgoing.getD s.port.shifted 0)
        shifted := min (s.port.shifted + 1) s.port.outgoing.length
        bits := []
        frame :=
          if s.port.frame = [] ∧ b = 0xFF then []
          else match s.port.frame with
            | code :: n :: params =>
              if n.toNat ≤ 60 ∧ params.length < n.toNat then code :: n :: params ++ [b] else code :: n :: params
            | frame => frame ++ [b] } })

/-- Byte i shifted in meets byte i of the held reply going out, 00hex beyond its end (R168). Rests in part on the
model's choices: log 13. -/
def Obligations.TransactionShiftsTheReplyOut : Prop :=
  ∀ (s : State) (bytes : List Byte) (b : Byte), s.resetHeld = false →
    ∃ t, Runs (.selectAsserted :: (bytes ++ [b]).map fun x => .portByteShifted (bitsOf x)) s t ∧ t = { s with port := t.port } ∧
      t.port.held = s.port.held ∧ t.port.opened = true ∧
      t.port.dataOut = some (s.port.held.bytes.getD bytes.length 0)

/-- Fill before the first frame byte is passed over; bytes after the frame is whole are ignored (R170, R171). Rests in
part on the model's choices: log 13. -/
def Obligations.FrameInProgressCollects : Prop :=
  ∀ (s : State) (k : Nat) (code n : Byte) (params rest : List Byte), s.resetHeld = false → code ≠ 0xFF →
    n.toNat ≤ 60 → params.length = n.toNat →
    (∃ t, Runs (.selectAsserted :: (List.replicate k 0xFF ++ code :: n :: params ++ rest).map fun x => .portByteShifted (bitsOf x)) s t ∧
      t = { s with port := t.port } ∧ t.port.frame = code :: n :: params ∧ t.port.held = s.port.held)
    ∧ ∃ t, Runs (.selectAsserted :: (List.replicate k 0xFF).map fun x => .portByteShifted (bitsOf x)) s t ∧
      t = { s with port := t.port } ∧ t.port.frame = [] ∧ t.port.held = s.port.held

/-- SELECT_RELEASED: an empty frame executes nothing, a frame not whole is TRUNCATED, an unknown code is refused
(R169, R170, R173). Rests in part on the model's choices: log 11, log 13. -/
def Obligations.SelectReleasedJudges : Prop :=
  ∀ (s : State) (after : Nat) (bits : List Bool), s.resetHeld = false →
    (s.port.opened = false → exec (.selectReleased after bits) s = .next { s with now := s.now + after }) ∧
    (s.port.opened = true →
      (s.port.frame = [] → exec (.selectReleased after bits) s =
        .next { s with now := s.now + after, port := ⟨s.port.held, false, [], 0, [], [], none⟩ }) ∧
      (∀ code, s.port.frame = [code] → exec (.selectReleased after bits) s =
        .next { s with now := s.now + after, port := ⟨⟨code, .truncated, []⟩, false, [], 0, [], [], none⟩ }) ∧
      (∀ code n params, s.port.frame = code :: n :: params → 60 < n.toNat ∨ params.length < n.toNat →
        exec (.selectReleased after bits) s =
          .next { s with now := s.now + after, port := ⟨⟨code, .truncated, []⟩, false, [], 0, [], [], none⟩ }) ∧
      (∀ code n params, s.port.frame = code :: n :: params → n.toNat ≤ 60 → params.length = n.toNat →
        (∀ c : Command, c.code ≠ code) → exec (.selectReleased after bits) s =
          .next { s with now := s.now + after, port := ⟨⟨code, .unknownCommand, []⟩, false, [], 0, [], [], none⟩ }))

/-- A whole frame of a command, at the release of select, does what the row of that command does (R169, R171). Rests
in part on the model's choices: log 12. -/
def Obligations.WholeFrameExecutesAsItsRow : Prop :=
  ∀ (c : Command) (s : State) (after : Nat) (bits : List Bool) (n : Byte) (params : List Byte), s.resetHeld = false →
    s.port.opened = true → s.port.frame = c.code :: n :: params → n.toNat ≤ 60 → params.length = n.toNat →
    exec (.selectReleased after bits) s = exec (c.row params) { s with now := s.now + after }

/-- A command that is refused changes nothing but the held reply, and every reply echoes its command (R174, R175). -/
def Obligations.RefusalChangesOnlyTheReply : Prop :=
  ∀ (c : Command) (params : List Byte) (s t : State), s.resetHeld = false → exec (c.row params) s = .next t →
    t.port.held.code = c.code ∧
    (t.port.held.result ≠ .done → t = s.replied c t.port.held.result t.port.held.data ∧
      (t.port.held.data = [] ∨ c = .admitTrack ∧ t.port.held.result = .setFull ∨
        c = .find ∧ t.port.held.result = .noSuchTrack))

/-- No reply carries more than 114 data bytes while every destination list holds at most 8 entries (R174). -/
def Obligations.RepliesFitTheFrame : Prop :=
  ∀ (c : Command) (params : List Byte) (s t : State), s.resetHeld = false →
    s.table.Every (fun u => u.entries.length ≤ 8) → exec (c.row params) s = .next t → t.port.held.data.length ≤ 114

/-- Over 60 parameter bytes are TRUNCATED; short or out of range fields BAD_FIELD; commands without fields take any
bytes (R59, R84, R89, R93, R147, R172, R173, R175). Rests in part on the model's choices: log 12. -/
def Obligations.FramesAreCheckedForLengthAndFields : Prop :=
  (∀ (c : Command) (params : List Byte) (s : State), s.resetHeld = false → 60 < params.length →
    exec (c.row params) s = .next (s.replied c .truncated []))
  ∧ (∀ (c : Command) (need : Nat) (params : List Byte) (s : State), (c, need) ∈ [(Command.setup, 7), (.attend, 1),
      (.admitTrack, 12), (.find, 2), (.owner, 4), (.amend, 3), (.attach, 6), (.detach, 6), (.retire, 2), (.guard, 3),
      (.survey, 7), (.lane, 9), (.laneQuery, 1), (.reference, 3)] → s.resetHeld = false → params.length < need →
    exec (c.row params) s = .next (s.replied c .badField []))
  ∧ (∀ (c : Command) (params : List Byte) (s t : State), c ∈ [Command.identify, .restart, .purge, .referenceQuery, .align] →
    s.takes params → exec (c.row params) s = .next t → t.port.held.result = .done)
  ∧ ∀ (params : List Byte) (s : State), s.takes params →
    (readSetup params = none → exec (.setup params) s = .next (s.replied .setup .badField [])) ∧
    (readAttend params = none → exec (.attend params) s = .next (s.replied .attend .badField [])) ∧
    (readAdmit params = none → exec (.admitTrack params) s = .next (s.replied .admitTrack .badField [])) ∧
    (readLabelOnly params = none → exec (.find params) s = .next (s.replied .find .badField []) ∧
      exec (.retire params) s = .next (s.replied .retire .badField [])) ∧
    (readOwner params = none → exec (.owner params) s = .next (s.replied .owner .badField [])) ∧
    (readAmend params = none → exec (.amend params) s = .next (s.replied .amend .badField [])) ∧
    (readAttach params = none → exec (.attach params) s = .next (s.replied .attach .badField []) ∧
      exec (.detach params) s = .next (s.replied .detach .badField [])) ∧
    (readGuard params = none → exec (.guard params) s = .next (s.replied .guard .badField [])) ∧
    (readSurvey params = none → exec (.survey params) s = .next (s.replied .survey .badField [])) ∧
    (readLane params = none → exec (.lane params) s = .next (s.replied .lane .badField [])) ∧
    (readReference params = none → exec (.reference params) s = .next (s.replied .reference .badField []))

/-- IDENTIFY, REFERENCE QUERY, ALIGN and LANE QUERY answer DONE with their data (R177, R31, R151, R29). -/
def Obligations.IdentifyAlignAndQueriesAnswer : Prop :=
  ∀ (params : List Byte) (s : State), s.takes params →
    exec (.identify params) s = .next (s.replied .identify .done [0x8C, 0x56, 1, 8, 64, 4, 64]) ∧
    exec (.referenceQuery params) s = .next (s.replied .referenceQuery .done
      [s.ref.source.kindByte, s.ref.source.laneByte, s.ref.state.code, s.ref.format.code, byteOf s.ref.phase,
       boolByte s.ref.align, s.ref.freeRun.code, formatByte s.ref.candidate, byteOf s.ref.count]) ∧
    exec (.align params) s = .next ({ s with ref := { s.ref with align := true } }.replied .align .done []) ∧
    (∀ (l : Fin 8) rest, params = byteOf l :: rest →
      let tx := s.tx.get l
      let rx := s.rx.get l
      let setting (x : LaneSetting) : List Byte := ([0, 1, 2, 3] : List (Fin 4)).flatMap fun g =>
        [match (x.get g).disposition with | .pass => 0 | .embed => 1 | .strip => 2,
         match (x.get g).word with | .w20 => 20 | .w24 => 24]
      exec (.laneQuery params) s = .next (s.replied .laneQuery .done
        ([match tx.mode with | .follow => (0 : Byte) | .fallback => 1, tx.format.code, byteOf tx.phase] ++ setting tx.groups
          ++ (match tx.staged with | some x => 1 :: setting x | none => [0, 0, 0, 0, 0, 0, 0, 0, 0])
          ++ [match rx.state with | .noSignal => (0 : Byte) | .seeking => 1 | .locked => 2,
            match rx.format with | none => 0 | some f => f.code,
            match rx.arrivingPhase with | none => 0xFF | some p => byteOf p]
          ++ ([0, 1, 2, 3] : List (Fin 4)).flatMap fun g => [if (rx.groups.get g).present then 1 else 0,
            byteOf (rx.groups.get g).hysteresis, byteOf (rx.groups.get g).depth,
            byteOf ([0, 1, 2, 3].countP fun c => (s.table.ownerOf (.lane l g c)).isSome)]))) ∧
    ∀ b rest, params = b :: rest → 8 ≤ b.toNat → exec (.laneQuery params) s = .next (s.replied .laneQuery .badField [])

/-- RESTART: table emptied, groups PASS 24, gain stage and attention unit at their starting values, identity reply
(R179, R153, R73, R117, R159). Rests in part on the model's choices: log 20. -/
def Obligations.RestartSetsThePart : Prop :=
  ∀ (params : List Byte) (s : State), s.takes params → ∃ tab tx, exec (.restart params) s = .next
      ({ s with table := tab, tx := tx, gain := ⟨480, .nearestEven⟩, attn := ⟨none, .none, 256, true, false⟩ }.replied
        .restart .done [0x8C, 0x56, 1, 8, 64, 4, 64]) ∧
    (∀ i, tab.slots.get i = none) ∧ (∀ d, tab.ownerOf d = none) ∧ tab.occupancy = 0 ∧ tab.staged = 0 ∧
    (∀ l, tx.get l = { s.tx.get l with
      groups := Bank.fill 4 ⟨.pass, .w24⟩, staged := none, line := none
      blanking := (s.finishLines.tx.get l).blanking }) ∧
    (∀ l, (s.tx.get l).line = none → (s.finishLines.tx.get l).blanking = (s.tx.get l).blanking) ∧
    ∀ t, exec (.restart params) s = .next t → t.attentionLine = true

/-- SETUP stores all five fields with the clamps, or none; requests stand (R118, R165, R176, R178). -/
def Obligations.SetupStoresItsFiveFields : Prop :=
  (∀ (s : State) (R T : Nat) (m : Rounding) (a : Option Occurrence) (b : SelectorB) (rest : List Byte),
    R ≤ 65535 → T ≤ 65535 → s.takes (bytes16 R ++ [roundingByte (some m), selectorAByte a, b.code] ++ bytes16 T ++ rest) →
    exec (.setup (bytes16 R ++ [roundingByte (some m), selectorAByte a, b.code] ++ bytes16 T ++ rest)) s =
      .next ({ s with gain := ⟨min R 4096, m⟩, attn := ⟨a, b, min T 256, s.attn.requestA, s.attn.requestB⟩ }.replied
        .setup .done []))
  ∧ ∀ (s : State) (r1 r0 m a b t1 t0 : Byte) (rest : List Byte), s.takes (r1 :: r0 :: m :: a :: b :: t1 :: t0 :: rest) →
    2 < m.toNat ∨ 5 < a.toNat ∨ 2 < b.toNat →
    exec (.setup (r1 :: r0 :: m :: a :: b :: t1 :: t0 :: rest)) s = .next (s.replied .setup .badField [])

/-- ATTEND answers the record as it stood, then clears the named requests (R164, R163). -/
def Obligations.AttendAnswersAndClears : Prop :=
  (∀ (s : State) (m : Byte) (rest : List Byte), s.takes (m :: rest) →
    (m.toNat < 4 → exec (.attend (m :: rest)) s = .next ({ s with attn := { s.attn with
        requestA := s.attn.requestA && !m.getLsbD 0, requestB := s.attn.requestB && !m.getLsbD 1 } }.replied .attend .done
      ([boolByte s.attn.requestA, boolByte s.attn.requestB, selectorAByte s.attn.selectorA, s.attn.selectorB.code]
        ++ bytes16 s.attn.threshold ++ bytes16 s.table.occupancy ++ bytes16 s.table.staged))) ∧
    (4 ≤ m.toNat → exec (.attend (m :: rest)) s = .next (s.replied .attend .badField [])))
  ∧ (∀ s : State, s.attentionLine = true ↔ s.attn.requestA = true ∨ s.attn.requestB = true)
  ∧ State.reset.attentionLine = true
  ∧ ∀ (s t : State) (params : List Byte), s.takes params → exec (.restart params) s = .next t → t.attentionLine = true

/-- Which parameter bytes each command reads, and as what: labels, sources, destinations, settings, formats, named
values (R30, R59, R70, R71, R84, R89, R93, R147, R154, R172, R181). -/
def Obligations.FieldRanges : Prop :=
  (∀ (k l g c : Byte) (d : Dest), readDest k l g c = some d ↔
    (∃ a : Fin 8, ∃ b e : Fin 4, d = .lane a b e ∧ k = 1 ∧ l.toNat = a.1 ∧ g.toNat = b.1 + 1 ∧ c.toNat = e.1 + 1) ∨
      ∃ n : Fin 64, d = .console n ∧ k = 2 ∧ c.toNat = n.1 + 1)
  ∧ (∀ (k l g c : Byte) (x : Source), readSource k l g c = some x ↔ (k = 0 ∧ x = .none) ∨
    (∃ a : Fin 8, ∃ b e : Fin 4, x = .lane a b e ∧ k = 1 ∧ l.toNat = a.1 ∧ g.toNat = b.1 + 1 ∧ c.toNat = e.1 + 1) ∨
      ∃ n : Fin 64, x = .console n ∧ k = 2 ∧ c.toNat = n.1 + 1)
  ∧ (∀ (h l : Byte) (n : Nat), readLabel h l = some n ↔ n = 256 * h.toNat + l.toNat ∧ n ≠ 0)
  ∧ (∀ b : Byte, ((readBool b).isSome ↔ b.toNat ≤ 1) ∧ ((readRounding b).isSome ↔ b.toNat ≤ 3) ∧
    ((readDisposition b).isSome ↔ b.toNat ≤ 2) ∧ ((readWordLength b).isSome ↔ b.toNat = 20 ∨ b.toNat = 24) ∧
    ((readFormat b).isSome ↔ 1 ≤ b.toNat ∧ b.toNat ≤ 6) ∧ ((readFilter b).isSome ↔ b.toNat ≤ 7 ∨ b.toNat = 255))
  ∧ (∀ (h l b : Byte) (rest : List Byte) (n : Nat) (on : Bool), readGuard (h :: l :: b :: rest) = some (n, on) ↔
    n = 256 * h.toNat + l.toNat ∧ n ≠ 0 ∧ b = if on then 1 else 0)
  ∧ (∀ (h l : Byte) (rest : List Byte) (n : Nat), readLabelOnly (h :: l :: rest) = some n ↔
    n = 256 * h.toNat + l.toNat ∧ n ≠ 0)
  ∧ (∀ (h l m : Byte) (rest : List Byte), 128 ≤ m.toNat → readAmend (h :: l :: m :: rest) = none)
  ∧ (∀ (k l f : Byte) (rest : List Byte) (src : RefSource) (fmt : Format), readReference (k :: l :: f :: rest) =
    some (src, fmt) ↔ (k = 0 ∧ src = .house ∨ (∃ a : Fin 8, k = 1 ∧ l.toNat = a.1 ∧ src = .lane a) ∨
      k = 2 ∧ src = .free) ∧ 1 ≤ f.toNat ∧ [Format.p1, .p2, .p3, .p4, .p5, .p6][f.toNat - 1]? = some fmt)
  ∧ (∀ (l d1 w1 d2 w2 d3 w3 d4 w4 : Byte) (rest : List Byte) (a : Fin 8) (x : LaneSetting),
    readLane (l :: d1 :: w1 :: d2 :: w2 :: d3 :: w3 :: d4 :: w4 :: rest) = some (a, x) ↔ l.toNat = a.1 ∧
      [(d1.toNat, w1.toNat), (d2.toNat, w2.toNat), (d3.toNat, w3.toNat), (d4.toNat, w4.toNat)] =
        ([0, 1, 2, 3] : List (Fin 4)).map fun g => (match (x.get g).disposition with | .pass => 0 | .embed => 1 | .strip => 2,
          match (x.get g).word with | .w20 => 20 | .w24 => 24))
  ∧ (∀ (k l g c : Byte) (rest : List Byte), readOwner (k :: l :: g :: c :: rest) = readDest k l g c)
  ∧ (∀ (h l k a g c : Byte) (rest : List Byte) (n : Nat) (d : Dest), readAttach (h :: l :: k :: a :: g :: c :: rest) =
    some (n, d) ↔ n = 256 * h.toNat + l.toNat ∧ n ≠ 0 ∧ readDest k a g c = some d)
  ∧ (∀ (h l m : Byte) (bs : List Byte) (r : AmendRequest), readAmend (h :: l :: m :: bs) = some r ↔
    r.label = 256 * h.toNat + l.toNat ∧ r.label ≠ 0 ∧ m.toNat < 128 ∧
    ∃ gain muted inverted rounding source s c rest : List Byte,
      bs = gain ++ muted ++ inverted ++ rounding ++ source ++ s ++ c ++ rest ∧
      itemHeld (m.getLsbD 0) gain r.setGain (fun b x => ∃ b1 b0 : Byte, b = [b1, b0] ∧ x = 256 * b1.toNat + b0.toNat) ∧
      itemHeld (m.getLsbD 1) muted r.muted (fun b x => b = [if x then 1 else 0]) ∧
      itemHeld (m.getLsbD 2) inverted r.inverted (fun b x => b = [if x then 1 else 0]) ∧
      itemHeld (m.getLsbD 3) rounding r.rounding (fun b x => ∃ b0 : Byte, b = [b0] ∧
        [some .nearestEven, some .floor, some .towardZero, none][b0.toNat]? = some x) ∧
      itemHeld (m.getLsbD 4) source r.source (fun b x => ∃ k a g c : Byte, b = [k, a, g, c] ∧ readSource k a g c = some x) ∧
      (s.length = (m.getLsbD 5).toNat ∧ r.clearSlipped = m.getLsbD 5) ∧
      c.length = (m.getLsbD 6).toNat ∧ r.clearClipped = m.getLsbD 6)
  ∧ (∀ (h l k a g c g1 g0 mu iv ro n : Byte) (rest : List Byte) (r : AdmitRequest),
    readAdmit (h :: l :: k :: a :: g :: c :: g1 :: g0 :: mu :: iv :: ro :: n :: rest) = some r ↔
    (r.label = 256 * h.toNat + l.toNat ∧ r.label ≠ 0) ∧ readSource k a g c = some r.source ∧
    r.setGain = 256 * g1.toNat + g0.toNat ∧ mu = (if r.muted then 1 else 0) ∧ iv = (if r.inverted then 1 else 0) ∧
    [some .nearestEven, some .floor, some .towardZero, none][ro.toNat]? = some r.rounding ∧
    n.toNat = r.dests.length ∧ n.toNat ≤ 8 ∧ r.dests.Nodup ∧ 4 * n.toNat ≤ rest.length ∧
    ∀ j d, r.dests[j]? = some d → readDest (rest.getD (4 * j) 0) (rest.getD (4 * j + 1) 0) (rest.getD (4 * j + 2) 0)
      (rest.getD (4 * j + 3) 0) = some d)
  ∧ ∀ (c1 c0 m p1 p2 p3 f : Byte) (rest : List Byte),
    (readSurvey (c1 :: c0 :: m :: p1 :: p2 :: p3 :: f :: rest)).isSome ↔ f.toNat ≤ 7 ∨ f.toNat = 255

/-- Every well-formed command's fields, encoded by chapter 12, are read back whole, whatever bytes follow (R30, R59,
R71, R84, R89, R93, R118, R147, R154, R155, R181). -/
def Obligations.EncodingsReadBack : Prop :=
  (∀ (r : AdmitRequest) (rest : List Byte), r.wellFormed = true → readAdmit (r.encode ++ rest) = some r ∧
    r.encode.length = 12 + 4 * r.dests.length)
  ∧ (∀ (r : AmendRequest) (rest : List Byte), r.wellFormed = true → readAmend (r.encode ++ rest) = some r ∧
    3 ≤ r.encode.length ∧ r.encode.length ≤ 14)
  ∧ (∀ (r : SetupRequest) (rest : List Byte), r.rampLength ≤ 4096 → r.threshold ≤ 256 →
    readSetup (r.encode ++ rest) = some r)
  ∧ (∀ (label : Nat) (d : Dest) (rest : List Byte), 1 ≤ label → label ≤ 65535 →
    readAttach (encodeAttach label d ++ rest) = some (label, d) ∧ readOwner (d.bytes ++ rest) = some d)
  ∧ (∀ (l : Fin 8) (setting : LaneSetting) (rest : List Byte), readLane (encodeLane l setting ++ rest) = some (l, setting))
  ∧ (∀ (label : Nat) (on : Bool) (rest : List Byte), 1 ≤ label → label ≤ 65535 →
    readGuard (bytes16 label ++ [boolByte on] ++ rest) = some (label, on) ∧
    readLabelOnly (bytes16 label ++ rest) = some label)
  ∧ (∀ (cursor maximum : Nat) (a b c d e f g h i : Selector) (filter : Option (Fin 8)) (rest : List Byte),
    cursor ≤ 256 → 1 ≤ maximum → maximum ≤ 16 →
    let code (x : Selector) : Nat := match x with | .either => 0 | .clear => 1 | .set => 2
    readSurvey (bytes16 cursor ++ [byteOf maximum, byteOf (64 * code a + 16 * code b + 4 * code c + code d),
      byteOf (64 * code e + 16 * code f + 4 * code g + code h), byteOf (64 * code i),
      match filter with | some l => byteOf l | none => 0xFF] ++ rest) =
      some ⟨cursor, maximum, [a, b, c, d, e, f, g, h, i], filter⟩)
  ∧ ∀ (source : RefSource) (f : Format) (rest : List Byte), readReference (encodeReference source f ++ rest) = some (source, f)

/-- Draws of one line may fall in several events: each is made as the part then stands, and the last one fills the
blanking (R107, R133, R142, R144, R145, R153). Rests in part on the model's choices: log 9, log 20. -/
def Obligations.LineDrawsFallInTheirTurn : Prop :=
  ∀ (s : State) (l : Fin 8) (a : Nat), s.resetHeld = false →
    let tx := s.tx.get l
    (∀ draws, tx.line = none → ∃ u, exec (.lineReached l ⟨a, some []⟩) s = .next u ∧
      ((u.tx.get l).line = none → exec (.lineReached l ⟨a, draws⟩) s = .next u) ∧
      ((u.tx.get l).line ≠ none → exec (.lineReached l ⟨a, draws⟩) s = exec (.lineReached l ⟨a, draws⟩) u)) ∧
    (tx.line = none → tx.mode = .follow → exec (.lineReached l ⟨a, some []⟩) s = .next { s with
      tx := s.tx.set l (({ tx with
        lines := tx.lines + 1, flat := false, store := tx.store.filter fun p => p.line ≠ a } : LaneTx).withLine
        (tx.openLine (tx.lines + 1) a)) }) ∧
    ∀ line : OpenLine, tx.line = some line →
      (tx.mode = .follow → ∀ reach, exec (.flatLineReached l reach) s = exec (.lineReached l reach) s) ∧
      (∀ ps p qs c, line.packets = ps ++ p :: qs → (∀ q ∈ ps, q.group ≠ p.group) →
        let made := p.drawn.countP fun x => x.1 = c
        let d := s.draw (.lane l p.group c) p.word
        let line' := { line with packets := ps ++ { p with drawn := p.drawn ++ [(c, d.1)] } :: qs }
        (made < p.sets → exec (.lineReached l ⟨a, some [(p.group, c)]⟩) s =
          .next { d.2 with tx := s.tx.set l (tx.withLine line') }) ∧
        (p.sets ≤ made → exec (.lineReached l ⟨a, some [(p.group, c)]⟩) s =
          .next { s with tx := s.tx.set l (tx.withLine line) })) ∧
      (∀ g c, (∀ p ∈ line.packets, p.group ≠ g) → exec (.lineReached l ⟨a, some [(g, c)]⟩) s =
        .next { s with tx := s.tx.set l (tx.withLine line) }) ∧
      (∀ c cs, ∃ u, exec (.lineReached l ⟨a, some [c]⟩) s = .next u ∧
        ((u.tx.get l).line = none → exec (.lineReached l ⟨a, some (c :: cs)⟩) s = .next u) ∧
        ((u.tx.get l).line ≠ none → exec (.lineReached l ⟨a, some (c :: cs)⟩) s = exec (.lineReached l ⟨a, some cs⟩) u)) ∧
      (exec (.lineReached l ⟨a, none⟩) s = .next (s.finishLine l) ∧ ((s.finishLine l).tx.get l).line = none ∧
        ((line.packets.map (·.group)).Nodup → exec (.lineReached l ⟨a, none⟩) s = exec (.lineReached l
          ⟨a, some (line.packets.flatMap fun p => (List.range p.sets).flatMap fun i =>
            ([0, 1, 2, 3].filter fun c => p.drawn.countP (fun x => x.1 = c) ≤ i).map fun c => (p.group, c))⟩) s)) ∧
      ((∃ p ∈ line.packets, ∃ c, p.drawn.countP (fun x => x.1 = c) < p.sets) →
        tx.withLine line = { tx with line := some line }) ∧
      ((∀ p ∈ line.packets, ∀ c, p.sets ≤ p.drawn.countP fun x => x.1 = c) →
        let built := (line.packets.map fun p => buildPacket p.group tx.phase p.sets p.word
          ((List.range p.sets).flatMap fun i => [0, 1, 2, 3].map fun c =>
            ((p.drawn.filter fun x => x.1 = c).map (·.2)).getD i 0)).flatten
        tx.withLine line = { tx with line := none, blanking := built ++ fitPackets (216 - built.length) line.passed })

/-- The destination map: 192 destinations in 192 different places; claim and release touch the named ones only (R63).
-/
def Obligations.MapReadsBack : Prop :=
  (∀ d e : Dest, d.index = e.index → d = e)
  ∧ (∀ (tab : Table) (ds : List Dest) (label : Nat) (d : Dest),
    (tab.claim ds label).ownerOf d = if d ∈ ds then some label else tab.ownerOf d)
  ∧ ∀ (tab : Table) (ds : List Dest) (d : Dest), (tab.release ds).ownerOf d = if d ∈ ds then none else tab.ownerOf d

/-- The set index spreads labels; in a table that keeps the placement law, lookup finds exactly the record with the
label (R55, R56, R58). -/
def Obligations.LookupFindsTheRecord : Prop :=
  (∀ l : Nat, l ≤ 65535 → (setOfLabel l).1 = ((l % 64) ^^^ (l / 64 % 64)) ^^^ (l / 4096) ∧ setIndex l = (setOfLabel l).1)
  ∧ (∀ a b c : Nat, b < 64 → c < 64 → 64 * a + 63 ≤ 65535 → setOfLabel (64 * a + b) = setOfLabel (64 * a + c) → b = c)
  ∧ ∀ (tab : Table) (label : Nat), tab.PlacementLaw →
    (∀ i t, tab.lookup label = some (i, t) ↔ tab.holds i t ∧ t.label = label) ∧
    (∀ i, tab.emptyWay label = some i ↔ i ∈ waysOf label ∧ tab.slots.get i = none ∧
      ∀ j ∈ waysOf label, j < i → (tab.slots.get j).isSome) ∧
    (tab.emptyWay label = none ↔ tab.waysOccupied label = 4)

/-- ADMIT that passes its checks: record, entries, map, counts, report and slot reply (R56, R61, R62, R65). -/
def Obligations.AdmitCreatesTheTrack : Prop :=
  ∀ (s : State) (params : List Byte) (r : AdmitRequest) (i : Fin 256), s.takes params → readAdmit params = some r →
    s.table.lookup r.label = none → s.table.emptyWay r.label = some i → (∀ d ∈ r.dests, s.table.ownerOf d = none) →
    (∀ d ∈ r.dests, s.embeds d = true) →
    let lost : Bool := r.source ≠ .none && (s.view r.source).isNone
    let target := if r.muted || lost then 0 else r.setGain
    exec (.admitTrack params) s = .next ({ s with
      table := {
        slots := s.table.slots.set i (some {
          label := r.label, retiring := false, guarded := false, setGain := r.setGain, muted := r.muted
          inverted := r.inverted, rounding := r.rounding, source := r.source, pendingSource := none
          sourceLost := lost
          gainNow := if s.gain.rampLength = 0 then target else 0
          ramp := if target = 0 ∨ s.gain.rampLength = 0 then none else some ⟨0, target, s.gain.rampLength, 0⟩
          slipped := false, clipped := false
          entries := r.dests.map fun d => Entry.mk d .joining false 0 0 })
        map := (s.table.claim r.dests r.label).map
        occupancy := s.table.occupancy + 1
        staged := s.table.staged + r.dests.length }
      attn := s.attn.reportOccupancy s.table.occupancy (s.table.occupancy + 1) }.replied .admitTrack .done [byteOf i])

/-- ADMIT in range is refused DUPLICATE, SET_FULL, OCCUPIED, NOT_EMBEDDING, in that order (R60). -/
def Obligations.AdmitRefusalsInOrder : Prop :=
  (∀ (s : State) (params : List Byte) (r : AdmitRequest), s.takes params → readAdmit params = some r →
    ((s.table.lookup r.label).isSome → exec (.admitTrack params) s = .next (s.replied .admitTrack .duplicate [])) ∧
    (s.table.lookup r.label = none → s.table.emptyWay r.label = none →
      exec (.admitTrack params) s = .next (s.replied .admitTrack .setFull [byteOf (setIndex r.label)])) ∧
    (s.table.lookup r.label = none → (s.table.emptyWay r.label).isSome → (∃ d ∈ r.dests, (s.table.ownerOf d).isSome) →
      exec (.admitTrack params) s = .next (s.replied .admitTrack .occupied [])) ∧
    (s.table.lookup r.label = none → (s.table.emptyWay r.label).isSome → (∀ d ∈ r.dests, s.table.ownerOf d = none) →
      (∃ d ∈ r.dests, s.embeds d = false) → exec (.admitTrack params) s = .next (s.replied .admitTrack .notEmbedding [])))
  ∧ (∀ (s : State) (n : Fin 64), s.embeds (.console n) = true)
  ∧ ∀ (s : State) (l : Fin 8) (g c : Fin 4), s.embeds (.lane l g c) = true ↔
    ((s.tx.get l).groups.get g).disposition = .embed ∧
      ∀ setting, (s.tx.get l).staged = some setting → (setting.get g).disposition = .embed

/-- FIND answers the record or the set and its occupied ways; OWNER answers label and phase or no owner (R68, R69,
R70, R74). -/
def Obligations.FindAndOwnerRead : Prop :=
  ∀ (s : State) (label : Nat) (d : Dest) (rest : List Byte), label ≤ 65535 → s.takes (bytes16 label ++ rest) →
    s.takes (d.bytes ++ rest) →
    (label = 0 → exec (.find (bytes16 label ++ rest)) s = .next (s.replied .find .badField [])) ∧
    (∀ i t, label ≠ 0 → s.table.lookup label = some (i, t) →
      exec (.find (bytes16 label ++ rest)) s = .next (s.replied .find .done (t.record i)) ∧
      t.record i = (byteOf i :: bytes16 t.label) ++ [boolByte t.retiring, boolByte t.guarded] ++ bytes16 t.setGain
        ++ [boolByte t.muted, boolByte t.inverted, roundingByte t.rounding] ++ t.source.bytes
        ++ (match t.pendingSource with | some x => 1 :: x.bytes | none => [0])
        ++ [boolByte t.sourceLost] ++ bytes16 t.gainNow
        ++ (match t.ramp with
          | some r => 1 :: (bytes16 r.start ++ bytes16 r.target ++ bytes16 r.length ++ bytes16 r.elapsed)
          | none => [0])
        ++ [boolByte t.slipped, boolByte t.clipped, byteOf t.entries.length]
        ++ (t.entries.flatMap fun e => e.dest.bytes ++ [e.phase.code,
          if e.taken = true ∧ t.pendingSource.isSome = true then 1 else 0,
          if (e.phase = .active ∨ e.phase = .leaving .active) ∧ t.effective e ≠ .none then byteOf e.lag else 0]
          ++ sampleBytes e.last) ∧
      (t.record i).length = 22 + (if t.pendingSource.isSome then 4 else 0) + (if t.ramp.isSome then 8 else 0)
        + 10 * t.entries.length) ∧
    (label ≠ 0 → s.table.lookup label = none → exec (.find (bytes16 label ++ rest)) s = .next
      (s.replied .find .noSuchTrack [byteOf (setIndex label), byteOf (s.table.waysOccupied label)])) ∧
    (∀ i t e, s.table.owning d = some (i, t, e) → exec (.owner (d.bytes ++ rest)) s = .next
      (s.replied .owner .done (bytes16 t.label ++ [e.phase.code]))) ∧
    (s.table.ownerOf d = none → exec (.owner (d.bytes ++ rest)) s = .next (s.replied .owner .done [0, 0, 0]))

/-- AMEND accepted: items stored, source change staged or completed, one change of target, counts and report (R82,
R90, R91, R119, R125, R126, R127). -/
def Obligations.AmendAppliesItsItems : Prop :=
  ∀ (s : State) (params : List Byte) (r : AmendRequest) (i : Fin 256) (t : Track), s.takes params →
    readAmend params = some r → s.table.lookup r.label = some (i, t) → t.retiring = false → t.guarded = false →
    (r.source.isSome → t.pendingSource = none) →
    ∃ u : Track, exec (.amend params) s = .next ({ s with
        table := { s.table with slots := s.table.slots.set i (some u), staged := s.table.staged +
          if u.pendingSource.isSome && t.pendingSource.isNone then 1 else 0 }
        attn := s.attn.reportIf (u.sourceLost && !t.sourceLost) .sourceLost }.replied .amend .done []) ∧
      u.label = t.label ∧ u.retiring = false ∧ u.guarded = false ∧ u.setGain = r.setGain.getD t.setGain ∧
      u.muted = r.muted.getD t.muted ∧ u.inverted = r.inverted.getD t.inverted ∧ u.rounding = r.rounding.getD t.rounding ∧
      u.slipped = (t.slipped && !r.clearSlipped) ∧ u.clipped = (t.clipped && !r.clearClipped) ∧
      (r.source = none ∨ r.source = some t.source → u.source = t.source ∧ u.pendingSource = t.pendingSource ∧
        u.sourceLost = t.sourceLost ∧ u.entries = t.entries) ∧
      (∀ src, r.source = some src → src ≠ t.source → (∃ e ∈ t.entries, e.phase ≠ .joining) → u.source = t.source ∧
        u.pendingSource = some src ∧ u.sourceLost = t.sourceLost ∧
        u.entries = t.entries.map fun e => { e with taken := e.phase = .joining }) ∧
      (∀ src, r.source = some src → src ≠ t.source → (∀ e ∈ t.entries, e.phase = .joining) → u.source = src ∧
        u.pendingSource = none ∧ (u.sourceLost = true ↔ src ≠ .none ∧ s.view src = none) ∧
        u.entries = t.entries.map fun e => { e with taken := false }) ∧
      (u.sourceLost = true → t.sourceLost = false → u.gainNow = 0 ∧ u.ramp = none) ∧
      ((u.sourceLost = true → t.sourceLost = true) →
        (u.target = t.target → u.gainNow = t.gainNow ∧ u.ramp = t.ramp) ∧
        (u.target ≠ t.target → u.target = t.gainNow → u.gainNow = t.gainNow ∧ u.ramp = none) ∧
        (u.target ≠ t.target → u.target ≠ t.gainNow → s.gain.rampLength = 0 → u.gainNow = u.target ∧ u.ramp = none) ∧
        (u.target ≠ t.target → u.target ≠ t.gainNow → s.gain.rampLength ≠ 0 →
          u.gainNow = t.gainNow ∧ u.ramp = some ⟨t.gainNow, u.target, s.gain.rampLength, 0⟩))

/-- GUARD, AMEND, ATTACH, DETACH and RETIRE: NO_SUCH_TRACK, then the state codes, then the resource codes, in order
(R71, R86, R87, R90, R93). -/
def Obligations.TrackCommandsRefuseInOrder : Prop :=
  ∀ (s : State) (params : List Byte), s.takes params →
    (∀ r, readAmend params = some r →
      (s.table.lookup r.label = none → exec (.amend params) s = .next (s.replied .amend .noSuchTrack [])) ∧
      ∀ i t, s.table.lookup r.label = some (i, t) →
        (t.retiring = true → exec (.amend params) s = .next (s.replied .amend .retiring [])) ∧
        (t.retiring = false → t.guarded = true → exec (.amend params) s = .next (s.replied .amend .guarded [])) ∧
        (t.retiring = false → t.guarded = false → r.source.isSome → t.pendingSource.isSome →
          exec (.amend params) s = .next (s.replied .amend .pending []))) ∧
    (∀ label, readLabelOnly params = some label →
      (s.table.lookup label = none → exec (.retire params) s = .next (s.replied .retire .noSuchTrack [])) ∧
      ∀ i t, s.table.lookup label = some (i, t) →
        (t.retiring = true → exec (.retire params) s = .next (s.replied .retire .retiring [])) ∧
        (t.retiring = false → t.guarded = true → exec (.retire params) s = .next (s.replied .retire .guarded [])) ∧
        (t.retiring = false → t.guarded = false → t.pendingSource.isSome →
          exec (.retire params) s = .next (s.replied .retire .pending []))) ∧
    (∀ label on, readGuard params = some (label, on) →
      (s.table.lookup label = none → exec (.guard params) s = .next (s.replied .guard .noSuchTrack [])) ∧
      ∀ i t, s.table.lookup label = some (i, t) → t.retiring = true →
        exec (.guard params) s = .next (s.replied .guard .retiring [])) ∧
    ∀ label d, readAttach params = some (label, d) →
      (s.table.lookup label = none → exec (.attach params) s = .next (s.replied .attach .noSuchTrack []) ∧
        exec (.detach params) s = .next (s.replied .detach .noSuchTrack [])) ∧
      ∀ i t, s.table.lookup label = some (i, t) →
        (t.retiring = true → exec (.attach params) s = .next (s.replied .attach .retiring []) ∧
          exec (.detach params) s = .next (s.replied .detach .retiring [])) ∧
        (t.retiring = false → t.guarded = true → exec (.detach params) s = .next (s.replied .detach .guarded [])) ∧
        (t.retiring = false → t.entryFor d = none →
          (t.guarded = false → exec (.detach params) s = .next (s.replied .detach .notAttached [])) ∧
          (∀ n, s.table.ownerOf d = some n → n ≠ label → exec (.attach params) s = .next (s.replied .attach .occupied [])) ∧
          ((∀ n, s.table.ownerOf d = some n → n = label) → 8 ≤ t.entries.length →
            exec (.attach params) s = .next (s.replied .attach .listFull [])) ∧
          ((∀ n, s.table.ownerOf d = some n → n = label) → t.entries.length < 8 → s.embeds d = false →
            exec (.attach params) s = .next (s.replied .attach .notEmbedding [])))

/-- GUARD of a LIVE track sets its guarded field to the named value and nothing else (R71). -/
def Obligations.GuardSetsTheFlag : Prop :=
  ∀ (s : State) (params : List Byte) (label : Nat) (on : Bool) (i : Fin 256) (t : Track), s.takes params →
    readGuard params = some (label, on) → s.table.lookup label = some (i, t) → t.retiring = false →
    exec (.guard params) s = .next ({ s with table := { s.table with
      slots := s.table.slots.set i (some { t with guarded := on }) } }.replied .guard .done [])

/-- ATTACH cancels its own track's leave, leaves its other entries alone, or adds a JOINING entry at the end (R84,
R85, R86). -/
def Obligations.AttachJoinsOrCancels : Prop :=
  ∀ (s : State) (params : List Byte) (label : Nat) (d : Dest) (i : Fin 256) (t : Track), s.takes params →
    readAttach params = some (label, d) → s.table.lookup label = some (i, t) → t.retiring = false →
    (t.entries.map (·.dest)).Nodup →
    (∀ e m, t.entryFor d = some e → e.phase = .leaving m → exec (.attach params) s = .next ({ s with
      table := { s.table with
        slots := s.table.slots.set i (some { t with entries := t.entries.map fun f : Entry =>
          if f.dest = d then { f with phase := match m with | .active => .active | .filling => .filling } else f })
        staged := s.table.staged - 1 }
      attn := s.attn.reportIf (s.table.staged = 1) .switchesDone }.replied .attach .done [])) ∧
    (∀ e, t.entryFor d = some e → e.phase.isLeaving = false →
      exec (.attach params) s = .next (s.replied .attach .done [])) ∧
    (t.entryFor d = none → (∀ n, s.table.ownerOf d = some n → n = label) → t.entries.length < 8 → s.embeds d = true →
      exec (.attach params) s = .next ({ s with table := {
        slots := s.table.slots.set i (some { t with
          entries := t.entries ++ [Entry.mk d .joining t.pendingSource.isSome 0 0] })
        map := s.table.map.set d.index (some label)
        occupancy := s.table.occupancy, staged := s.table.staged + 1 } }.replied .attach .done []))

/-- DETACH removes a JOINING entry at once, makes a FILLING or ACTIVE one LEAVING, leaves a LEAVING one alone (R87,
R88). -/
def Obligations.DetachByPhase : Prop :=
  ∀ (s : State) (params : List Byte) (label : Nat) (d : Dest) (i : Fin 256) (t : Track) (e : Entry), s.takes params →
    readAttach params = some (label, d) → s.table.lookup label = some (i, t) → t.retiring = false → t.guarded = false →
    t.ListLaw → t.ChangeLaw → t.entryFor d = some e →
    (e.phase = .joining → exec (.detach params) s = .next ({ s with
      table := {
        slots := s.table.slots.set i (some { t with entries := t.entries.filter fun f : Entry => f.dest ≠ d })
        map := s.table.map.set d.index none
        occupancy := s.table.occupancy, staged := s.table.staged - 1 }
      attn := s.attn.reportIf (s.table.staged = 1) .switchesDone }.replied .detach .done [])) ∧
    (∀ m, e.phase.manner = some m → e.phase.isLeaving = false → exec (.detach params) s = .next ({ s with
      table := { s.table with
        slots := s.table.slots.set i (some { t with entries := t.entries.map fun f : Entry =>
          if f.dest = d then { f with phase := .leaving m } else f })
        staged := s.table.staged + 1 } }.replied .detach .done [])) ∧
    (∀ m, e.phase = .leaving m → exec (.detach params) s = .next (s.replied .detach .done []))

/-- RETIRE: RETIRING, FILLING and ACTIVE entries leave, JOINING ones go at once, an emptied record is freed (R57, R94,
R95). -/
def Obligations.RetireLeavesOrFrees : Prop :=
  ∀ (s : State) (params : List Byte) (label : Nat) (i : Fin 256) (t : Track), s.takes params →
    readLabelOnly params = some label → s.table.lookup label = some (i, t) → t.retiring = false → t.guarded = false →
    t.pendingSource = none →
    let staged := s.table.staged + t.entries.countP (fun e => e.phase = .filling ∨ e.phase = .active)
      - t.entries.countP (fun e => e.phase = .joining)
    let map := (s.table.release ((t.entries.filter fun e => e.phase = .joining).map (·.dest))).map
    let attn := s.attn.reportIf (0 < s.table.staged && staged = 0) .switchesDone
    ((∃ e ∈ t.entries, e.phase ≠ .joining) → exec (.retire params) s = .next ({ s with
      table := { s.table with
        slots := s.table.slots.set i (some { t with retiring := true, entries := t.entries.filterMap fun e : Entry =>
          match e.phase with
          | .joining => none
          | .filling => some { e with phase := .leaving .filling }
          | .active => some { e with phase := .leaving .active }
          | .leaving _ => some e })
        map := map, staged := staged }
      attn := attn }.replied .retire .done [])) ∧
    ((∀ e ∈ t.entries, e.phase = .joining) → exec (.retire params) s = .next ({ s with
      table := ⟨s.table.slots.set i none, map, s.table.occupancy - 1, staged⟩
      attn := attn.reportOccupancy s.table.occupancy (s.table.occupancy - 1) }.replied .retire .done []))

/-- SURVEY: clamps, selectors, flags and lane filter; the first matching labels, and pages laid end to end give every
match (R154, R155, R156, R157). -/
def Obligations.SurveyPagesCompose : Prop :=
  (∀ (s : State) (params : List Byte) (r : SurveyRequest), s.takes params → readSurvey params = some r →
    exec (.survey params) s = .next (s.replied .survey .done (byteOf (r.page s.table).1.length
      :: (r.page s.table).1.flatMap bytes16 ++ bytes16 (r.page s.table).2)))
  ∧ (∀ (c1 c0 m p1 p2 p3 f : Byte) (rest : List Byte) (r : SurveyRequest),
    readSurvey (c1 :: c0 :: m :: p1 :: p2 :: p3 :: f :: rest) = some r →
    r.cursor = min (256 * c1.toNat + c0.toNat) 256 ∧ r.maximum = max 1 (min m.toNat 16) ∧
    (r.filter = none ↔ f = 0xFF) ∧ (∀ l, r.filter = some l → f.toNat = l.1) ∧ r.pattern.length = 9 ∧
    ∀ j (h : j < r.pattern.length),
      let code := (if j < 4 then p1 else if j < 8 then p2 else p3).toNat / 4 ^ (3 - j % 4) % 4
      r.pattern[j] = if code = 1 then .clear else if code = 2 then .set else .either)
  ∧ (∀ (r : SurveyRequest) (t : Track),
    let flags : List Bool := [t.guarded, t.muted, t.inverted, t.sourceLost, t.ramp.isSome,
      t.pendingSource.isSome || t.entries.any fun e => e.phase = .joining || e.phase.isLeaving,
      t.slipped, t.clipped, t.retiring]
    r.admits t = true ↔
      (∀ j : Nat, (r.pattern[j]? = some .clear → flags[j]? ≠ some true) ∧
        (r.pattern[j]? = some .set → flags[j]? ≠ some false)) ∧
      ∀ l, r.filter = some l → ∃ g c, t.source = .lane l g c ∨ t.pendingSource = some (.lane l g c) ∨
        ∃ e ∈ t.entries, e.dest = .lane l g c)
  ∧ ∀ (r : SurveyRequest) (tab : Table), r.cursor ≤ 256 → 1 ≤ r.maximum →
    let matchesFrom (c : Nat) : List Nat := (tab.slots.cells.drop c).filterMap fun o =>
      o.bind fun t => if r.admits t then some t.label else none
    (r.page tab).1 ++ matchesFrom (r.page tab).2 = matchesFrom r.cursor ∧ (r.page tab).1.length ≤ r.maximum ∧
    (r.page tab).2 ≤ 256 ∧ (r.cursor < 256 → r.cursor < (r.page tab).2) ∧
    ((r.page tab).1.length < r.maximum → (r.page tab).2 = 256) ∧
    ((r.page tab).1.length = r.maximum → ∃ i t, tab.holds i t ∧ r.admits t = true ∧ r.cursor ≤ i.1 ∧
      (r.page tab).1.getLast? = some t.label ∧ (r.page tab).2 = i.1 + 1)

/-- PURGE: every record and entry gone, map empty, staged items the staged lanes, the falls reported (R72, R153).
Rests in part on the model's choices: log 20. -/
def Obligations.PurgeEmptiesTheTable : Prop :=
  ∀ (s : State) (params : List Byte), s.takes params →
    let lanes := s.tx.cells.countP fun x => x.staged.isSome
    let u := s.finishLines
    exec (.purge params) s = .next ({ u with
      table := ⟨Bank.fill 256 none, Bank.fill 192 none, 0, lanes⟩
      attn := (u.attn.reportIf (0 < s.table.staged && lanes = 0) .switchesDone).reportOccupancy s.table.occupancy 0
    }.replied .purge .done []) ∧
    ((∀ l, (s.tx.get l).line = none) → u = s) ∧
    u = { s with tx := u.tx, table := u.table, attn := u.attn } ∧
    (∀ l, u.tx.get l = { s.tx.get l with line := none, blanking := (u.tx.get l).blanking }) ∧
    ∃ slips : Bool, u.attn = s.attn.reportIf slips .slip

/-- LANE stages its setting, or is refused GROUP_IN_USE where an EMBED group with owned channels would leave EMBED
(R147, R148, R149). -/
def Obligations.LaneStagesItsSetting : Prop :=
  ∀ (s : State) (params : List Byte) (l : Fin 8) (setting : LaneSetting), s.takes params →
    readLane params = some (l, setting) →
    ((∃ g, ((s.tx.get l).groups.get g).disposition = .embed ∧ (setting.get g).disposition ≠ .embed ∧
        ∃ c, (s.table.ownerOf (.lane l g c)).isSome) →
      exec (.lane params) s = .next (s.replied .lane .groupInUse [])) ∧
    ((∀ g, ((s.tx.get l).groups.get g).disposition = .embed → (setting.get g).disposition ≠ .embed →
        ∀ c, s.table.ownerOf (.lane l g c) = none) →
      exec (.lane params) s = .next ({ s with
        tx := s.tx.set l { s.tx.get l with staged := some setting }
        table := { s.table with staged := s.table.staged + if (s.tx.get l).staged.isSome then 0 else 1 }
      }.replied .lane .done []))

/-- REFERENCE stores the free-run format and keeps, frees or changes the source, and answers the record after it (R20,
R21, R26, R27, R28, R30). Rests in part on the model's choices: log 3, log 6, log 10, log 19, log 22. -/
def Obligations.ReferenceSelectsItsSource : Prop :=
  ∀ (s : State) (params : List Byte) (src : RefSource) (f : Format), s.takes params →
    readReference params = some (src, f) →
    (∃ t : State, exec (.reference params) s = .next (t.replied .reference .done t.ref.record) ∧ t.ref.source = src ∧
      t.ref.freeRun = f ∧ t.rx = s.rx ∧ t.console = s.console ∧ t.gain = s.gain ∧ t.now = s.now ∧
      t.pending = s.pending) ∧
    (src = s.ref.source → exec (.reference params) s = .next
      ({ s with ref := { s.ref with freeRun := f } }.replied .reference .done { s.ref with freeRun := f }.record)) ∧
    (src ≠ s.ref.source → src = .free →
      let length := if s.ref.state = .locked then s.ref.lockedPeriod else s.ref.frameLength
      let r : RefUnit := { s.ref with
        source := .free, freeRun := f, state := .free, candidate := none, count := 0, counted := false
        frameLength := length }
      let p := if f ≠ s.ref.format ∨ s.ref.align = true then 0 else (s.ref.phase + 1) % s.ref.format.cadence
      (s.now < s.ref.frameStart + length → exec (.reference params) s = .next ({ s with
        ref := r, attn := s.attn.reportIf (s.ref.state != RefState.free) .referenceChange }.replied .reference .done r.record)) ∧
      (s.ref.frameStart + length ≤ s.now →
        let v := State.beginReferenceFrame { s with ref := r }
        let changed : Bool := s.ref.state != RefState.free || f != s.ref.format
        exec (.reference params) s =
          .next ({ v with attn := v.attn.reportIf changed .referenceChange }.replied .reference .done v.ref.record) ∧
        v.ref = { r with
          format := f, phase := p, align := false, frameStart := s.now, frameLength := f.samples p * Config.unitsPerSample
          pace := f.nominal, emitted := 0, owed := false })) ∧
    (src ≠ s.ref.source → src ≠ .free →
      let period := match s.ref.state with
        | .holdover => s.ref.holdover
        | .locked => s.ref.lockedPeriod
        | .free => s.ref.format.nominal
      let length := if s.ref.state = .holdover then s.ref.frameLength else period
      let r : RefUnit := { s.ref with
        source := src, freeRun := f, state := .holdover, candidate := none, count := 0, counted := false
        holdover := period, frameLength := length, pace := if s.ref.state = .holdover then s.ref.pace else period
        lastLine := s.now
        present := match src with | .lane l => (s.rx.get l).state != .noSignal | _ => true }
      let p := if s.ref.align = true then 0 else (s.ref.phase + 1) % s.ref.format.cadence
      (s.ref.state = .holdover ∨ s.now < s.ref.frameStart + length → exec (.reference params) s = .next ({ s with
        ref := r, attn := s.attn.reportIf (s.ref.state != RefState.holdover) .referenceChange }.replied .reference .done
          r.record)) ∧
      (s.ref.state ≠ .holdover → s.ref.frameStart + length ≤ s.now →
        let v := State.beginReferenceFrame { s with ref := r }
        exec (.reference params) s = .next ({ v with attn := v.attn.report .referenceChange }.replied .reference .done
          v.ref.record) ∧
        v.ref = { r with
          phase := p, align := false, frameStart := s.now, frameLength := period, pace := period, emitted := 0
          owed := false }))

/-- Shares and cadences: J lines together floor(J × S / M), lines beyond none; S(p), and Q frames carry C samples (R1,
R4, R5, R6, R7, R11, R12, R14). -/
def Obligations.SharesSpreadTheFrame : Prop :=
  (∀ plan : Plan, 0 < plan.carriage →
    (∀ J, J ≤ plan.carriage → ((List.range J).map plan.share).sum = J * plan.samples / plan.carriage) ∧
    ((List.range plan.carriage).map plan.share).sum = plan.samples ∧
    (∀ j, j < plan.carriage → plan.share j = plan.samples / plan.carriage ∨
      plan.share j = plan.samples / plan.carriage + 1) ∧
    (List.range plan.carriage).countP (fun j => plan.share j = plan.samples / plan.carriage + 1) =
      plan.samples - plan.carriage * (plan.samples / plan.carriage) ∧
    (∀ j, plan.carriage ≤ j → plan.share j = 0) ∧
    ∀ (f : Format) (p j : Nat), p < f.cadence → (Plan.of f p).share j ≤ 2)
  ∧ (Format.all.map fun f => (List.range f.cadence).map f.samples) =
    [[1920], [1601, 1602, 1601, 1602, 1602], [960], [800, 801, 801, 801, 801], [960], [800, 801, 801, 801, 801]]
  ∧ (Format.all.map fun f => (f.lines, f.numerator, f.cadence, f.carriage)) = [(1125, 1920, 1, 1123),
    (1125, 8008, 5, 1123), (1125, 960, 1, 1123), (1125, 4004, 5, 1123), (750, 960, 1, 748), (750, 4004, 5, 748)]
  ∧ ∀ (f : Format) (p : Nat), p < f.cadence → f.successor p < f.cadence ∧
    ((List.range f.cadence).map fun i => f.samples ((p + i) % f.cadence)).sum = f.numerator

/-- With LANE n selected, lane n's switch lines and its loss move the reference as the house's do; other lanes' leave
it (R18, R19, R22, R23, R24, R25, R26, R28, R33, R80). Rests in part on the model's choices: log 6, log 10. -/
def Obligations.LaneLinesMoveTheReference : Prop :=
  ∀ (s : State) (l : Fin 8) (lines after : Nat), s.resetHeld = false →
    (s.ref.source ≠ .lane l → (∃ t, exec (.laneSwitchLine l lines after) s = .next t ∧ t.ref = s.ref) ∧
      ∃ t, exec (.laneFeedLost l) s = .next t ∧ t.ref = s.ref) ∧
    (s.ref.source = .lane l →
      let rx := s.rx.get l
      let now := s.now + after
      let period := now - rx.lastLine
      let cls := classify lines period
      let open' : RefUnit := { s.ref with present := true, lastLine := now, counted := true }
      let gone : RefUnit := { s.ref with present := false, counted := false, candidate := none, count := 0 }
      let next (f : Format) : Nat :=
        if f ≠ s.ref.format ∨ s.ref.align = true then 0 else (s.ref.phase + 1) % s.ref.format.cadence
      let begun (w : State) (r : RefUnit) (changed : Bool) : State :=
        let v := State.beginReferenceFrame { w with ref := r }
        { v with attn := v.attn.reportIf changed .referenceChange }
      let elsewhere : State := { s with ref := { s.ref with source := .house } }
      (∃ w, exec (.laneSwitchLine l lines after) elsewhere = .next { w with ref := elsewhere.ref } ∧ w.ref = s.ref ∧
        (s.ref.state = .holdover → s.ref.counted = false ∨ rx.state = .noSignal →
          exec (.laneSwitchLine l lines after) s = .next { w with ref := open' }) ∧
        (s.ref.state = .holdover → s.ref.counted = true → rx.state ≠ .noSignal →
          (cls = none → exec (.laneSwitchLine l lines after) s =
            .next { w with ref := { open' with candidate := none, count := 0 } }) ∧
          (∀ f, cls = some f → s.ref.candidate ≠ some f → exec (.laneSwitchLine l lines after) s =
            .next { w with ref := { open' with candidate := some f, count := 1 } }) ∧
          (∀ f, cls = some f → s.ref.candidate = some f → s.ref.count = 1 →
            let t := begun w { open' with state := .locked, candidate := some f, count := 2, lockedPeriod := period } true
            exec (.laneSwitchLine l lines after) s = .next t ∧ t.ref = { open' with
              state := .locked, candidate := some f, count := 2, lockedPeriod := period, format := f, phase := next f
              align := false, frameStart := now, frameLength := period, pace := period, emitted := 0
              owed := false })) ∧
        (s.ref.state = .locked → s.ref.counted = true → rx.state ≠ .noSignal → s.ref.candidate = some s.ref.format →
          (cls = some s.ref.format →
            let t := begun w { open' with lockedPeriod := period } false
            exec (.laneSwitchLine l lines after) s = .next t ∧ t.ref = { open' with
              lockedPeriod := period, phase := next s.ref.format, align := false, frameStart := now
              frameLength := period, pace := period, emitted := 0, owed := false }) ∧
          (cls ≠ some s.ref.format →
            let left : RefUnit := { open' with
              state := .holdover, holdover := s.ref.lockedPeriod, candidate := cls
              count := if cls.isSome then 1 else 0 }
            let t := begun w left true
            exec (.laneSwitchLine l lines after) s = .next t ∧ t.ref = { left with
              phase := next s.ref.format, align := false, frameStart := now, frameLength := s.ref.lockedPeriod
              pace := s.ref.lockedPeriod, emitted := 0, owed := false }))) ∧
      (rx.state ≠ .noSignal → ∃ w, exec (.laneFeedLost l) elsewhere = .next { w with ref := elsewhere.ref } ∧
        w.ref = s.ref ∧ (s.ref.state = .holdover → exec (.laneFeedLost l) s = .next { w with ref := gone }) ∧
        (s.ref.state = .locked →
          let t := begun w { gone with state := .holdover, holdover := s.ref.lockedPeriod } true
          exec (.laneFeedLost l) s = .next t ∧ t.ref = { gone with
            state := .holdover, holdover := s.ref.lockedPeriod, phase := next s.ref.format, align := false
            frameStart := w.now, frameLength := s.ref.lockedPeriod, pace := s.ref.lockedPeriod, emitted := 0
            owed := false })))

/-- A frame is of format Pn exactly when its lines match and its period lies within 500 parts per million (R2). Rests
in part on the model's choices: log 4. -/
def Obligations.ClassingIsUnambiguous : Prop :=
  ∀ (lines period : Nat) (f : Format), classify lines period = some f ↔ lines = f.lines ∧
    1000000 * period ≤ f.nominal * 1000500 ∧ f.nominal * 999500 ≤ 1000000 * period

/-- NEAREST_EVEN, FLOOR and TOWARD_ZERO, each by what its result is (R129, R130). -/
def Obligations.RoundingModesRound : Prop :=
  (∀ p d : Int, 0 < d →
    (d * Rounding.floor.divide p d ≤ p ∧ p < d * (Rounding.floor.divide p d + 1)) ∧
    (0 ≤ p → d * Rounding.towardZero.divide p d ≤ p ∧ p < d * (Rounding.towardZero.divide p d + 1)) ∧
    (p ≤ 0 → p ≤ d * Rounding.towardZero.divide p d ∧ d * (Rounding.towardZero.divide p d - 1) < p) ∧
    |2 * (p - d * Rounding.nearestEven.divide p d)| ≤ d ∧
    (|2 * (p - d * Rounding.nearestEven.divide p d)| = d → Rounding.nearestEven.divide p d % 2 = 0))
  ∧ WordLength.w24.divisor = 16384 ∧ WordLength.w20.divisor = 262144

/-- Every shaped sample lies in the range of its word length; inversion, unity, silence and clipping (R128, R132). -/
def Obligations.ShapedSamplesLieInRange : Prop :=
  (∀ (t : Track) (device : Rounding) (w : WordLength) (x : Sample),
    (-(2 ^ (w.bits - 1)) ≤ t.shape device w x ∧ t.shape device w x ≤ 2 ^ (w.bits - 1) - 1) ∧
    (t.clips device w x = false ↔
      t.shape device w x = (t.mode device).divide (invertSample t.inverted x * t.gainNow) w.divisor) ∧
    (t.shape device w 0 = 0 ∧ t.clips device w 0 = false) ∧
    (t.gainNow = 16384 → t.inverted = false → t.shape device .w24 x = x.toInt ∧ t.clips device .w24 x = false) ∧
    (t.clips device w x = true → t.shape device w x = -(2 ^ (w.bits - 1)) ∨ t.shape device w x = 2 ^ (w.bits - 1) - 1))
  ∧ (∀ x : Sample, invertSample false x = x.toInt ∧ (x.toInt ≠ -8388608 → invertSample true x = -x.toInt) ∧
    (x.toInt = -8388608 → invertSample true x = 8388607) ∧
    -8388608 ≤ invertSample true x ∧ invertSample true x ≤ 8388607)
  ∧ (∀ (t : Track) (device : Rounding) (x : Sample), t.gainNow = 16384 → t.inverted = true →
    t.clips device .w24 x = false ∧ t.shape device .w24 x = invertSample true x)
  ∧ ∀ (s : State) (d : Dest) (w : WordLength), -(2 ^ (w.bits - 1)) ≤ (s.draw d w).1 ∧ (s.draw d w).1 ≤ 2 ^ (w.bits - 1) - 1

/-- A ramp step is G(k) = Gs + trunc((Gt − Gs) × k / R), never turning or passing its target; the last step as its own
row (R122, R124). Rests in part on the model's choices: log 7. -/
def Obligations.RampStepsTowardItsTarget : Prop :=
  (∀ (t : Track) (r : Ramp), t.ramp = some r → r.elapsed < r.length →
    (t.stepRamp.gainNow : Int) =
      r.start + Int.tdiv (((r.target : Int) - r.start) * (r.elapsed + 1 : Nat)) r.length ∧
    t.stepRamp = { t with
      gainNow := t.stepRamp.gainNow
      ramp := if r.elapsed + 1 = r.length then none else some { r with elapsed := r.elapsed + 1 } } ∧
    (r.elapsed + 1 = r.length → t.stepRamp.gainNow = r.target))
  ∧ (∀ (r : Ramp) (j k : Nat), 0 < r.length → j ≤ k → k ≤ r.length →
    (r.start ≤ r.target → r.start ≤ r.gainAt j ∧ r.gainAt j ≤ r.gainAt k ∧ r.gainAt k ≤ r.target) ∧
    (r.target ≤ r.start → r.target ≤ r.gainAt k ∧ r.gainAt k ≤ r.gainAt j ∧ r.gainAt j ≤ r.start))
  ∧ (∀ t : Track, t.ramp = none → t.stepRamp = t)
  ∧ ∀ (s : State) (label : Nat), s.resetHeld = false →
    (∀ i t r, s.table.lookup label = some (i, t) → t.ramp = some r → r.length = r.elapsed + 1 →
      exec (.rampReachesTarget label) s = .next { s with table := { s.table with
        slots := s.table.slots.set i (some { t with gainNow := r.target, ramp := none }) } }) ∧
    (s.table.lookup label = none → exec (.rampReachesTarget label) s = .next s) ∧
    ∀ i t, s.table.lookup label = some (i, t) → (∀ r, t.ramp = some r → r.length ≠ r.elapsed + 1) →
      exec (.rampReachesTarget label) s = .next s

/-- A draw: position lag of the window and lag one less; the last value again and a slip at lag 0; silence without lag
(R64, R103, R104, R105, R106). -/
def Obligations.DrawTakesTheOldestUndrawn : Prop :=
  ∀ (s : State) (d : Dest) (w : WordLength),
    (s.table.owning d = none → s.draw d w = (0, s)) ∧
    ∀ i t e, s.table.owning d = some (i, t, e) → (t.entries.map (·.dest)).Nodup →
      let entry (f : Entry) (slipped clipped : Bool) : Track := { t with
        slipped := t.slipped || slipped, clipped := t.clipped || clipped
        entries := t.entries.map fun g => if g.dest = d then f else g }
      let after (u : Track) : State := { s with table := { s.table with slots := s.table.slots.set i (some u) } }
      (t.keepsLag e = true → e.lag ≠ 0 →
        let x := s.sampleAt (t.effective e) e.lag
        s.draw d w = (t.shape s.gain.rounding w x,
          after (entry { e with last := x, lag := e.lag - 1 } false (t.clips s.gain.rounding w x)))) ∧
      (t.keepsLag e = true → e.lag = 0 → s.draw d w = (t.shape s.gain.rounding w e.last,
        { after (entry e true (t.clips s.gain.rounding w e.last)) with attn := s.attn.report .slip })) ∧
      (t.keepsLag e = false → s.draw d w = (0, after (entry e false false)))

/-- An arrival raises lag below 16, slip-drops at 16, and brings FILLING to ACTIVE with lag 8 at depth 8 (R101, R102,
R106). -/
def Obligations.ArrivalsRaiseLagAndFill : Prop :=
  ∀ (t : Track) (into : Source → Bool) (depth : Nat), into .none = false →
    (t.arrive into depth).entries = (t.entries.map fun e =>
      if into (t.effective e) then
        match e.phase with
        | .active | .leaving .active => { e with lag := if e.lag < 16 then e.lag + 1 else 16 }
        | .filling => if depth = 8 then { e with phase := .active, lag := 8 } else e
        | .leaving .filling => if depth = 8 then { e with phase := .leaving .active, lag := 8 } else e
        | .joining => e
      else e) ∧
    ((t.arrive into depth).slipped = true ↔ t.slipped = true ∨ ∃ e ∈ t.entries, into (t.effective e) = true ∧
      e.phase.manner = some .active ∧ 16 ≤ e.lag) ∧
    t.arrive into depth = { t with
      entries := (t.arrive into depth).entries, slipped := (t.arrive into depth).slipped }

/-- A loss cuts the track and sends its entries FILLING; a return refills them and fades the track in (R108, R109,
R110, R120, R121). -/
def Obligations.LossAndReturnMoveTheTrack : Prop :=
  (∀ (t : Track) (gone : Source → Bool),
    (t.lose gone).entries = (t.entries.map fun e => if gone (t.effective e) then
      match e.phase with
      | .active | .filling => { e with phase := .filling, lag := 0 }
      | .leaving .active => { e with phase := .leaving .filling, lag := 0 }
      | .leaving .filling | .joining => e
      else e) ∧
    t.lose gone = { t with
      entries := (t.lose gone).entries, sourceLost := t.sourceLost || gone t.source
      gainNow := if gone t.source then 0 else t.gainNow, ramp := if gone t.source then none else t.ramp })
  ∧ ∀ (t : Track) (view : SourceView) (R : Nat) (back : Source → Bool), back .none = false →
    (∀ src, back src = true → view src = some 0) →
    (t.comeBack view R back).entries = (t.entries.map fun e => if back (t.effective e) then
      match e.phase with
      | .active | .filling => { e with phase := .filling, lag := 0 }
      | .leaving _ => { e with phase := .leaving .filling, lag := 0 }
      | .joining => e
      else e) ∧
    (back t.source = false → t.comeBack view R back = { t with entries := (t.comeBack view R back).entries }) ∧
    (back t.source = true → t.sourceLost = true → t.gainNow = 0 → t.ramp = none →
      t.comeBack view R back = { t with
        entries := (t.comeBack view R back).entries, sourceLost := false
        gainNow := if R = 0 ∧ t.muted = false then t.setGain else 0
        ramp := if t.muted = true ∨ t.setGain = 0 ∨ R = 0 then none else some ⟨0, t.setGain, R, 0⟩ })

/-- A switch point: JOINING starts, LEAVING goes, an untaken entry takes the pending source, the change completes
(R77, R78, R81, R82, R95). -/
def Obligations.SwitchPointLandsChanges : Prop :=
  ∀ (t : Track) (view : SourceView) (R : Nat) (concerned : Dest → Bool), view .none = none →
    let started (src : Source) (taken : Bool) (e : Entry) : Entry :=
      if src = .none then { e with phase := .active, lag := 0, taken := taken }
      else if (view src).any (8 ≤ ·) then { e with phase := .active, lag := 8, taken := taken }
      else { e with phase := .filling, lag := 0, taken := taken }
    let list := t.entries.filterMap fun e =>
      if concerned e.dest = false then some e
      else match e.phase, t.pendingSource with
        | .joining, _ => some (started (t.effective e) e.taken e)
        | .leaving _, _ => none
        | _, none => some e
        | _, some src => if e.taken then some e else some (started src true e)
    ((∀ e ∈ t.entries, concerned e.dest = false) → t.atSwitchPoint view R concerned = some t) ∧
    ((∃ e ∈ t.entries, concerned e.dest = true) →
      (t.retiring = true → t.pendingSource = none →
        t.atSwitchPoint view R concerned = if list = [] then none else some { t with entries := list }) ∧
      (t.retiring = false → t.pendingSource = none → t.atSwitchPoint view R concerned = some { t with entries := list }) ∧
      (∀ src, t.retiring = false → t.pendingSource = some src → (∃ e ∈ list, e.taken = false) →
        t.atSwitchPoint view R concerned = some { t with entries := list }) ∧
      ∀ src, t.retiring = false → t.pendingSource = some src → (∀ e ∈ list, e.taken = true) →
        ∃ u, t.atSwitchPoint view R concerned = some u ∧ u = { t with
            source := src, pendingSource := none, entries := list.map fun e => { e with taken := false }
            sourceLost := decide (src ≠ .none) && (view src).isNone, gainNow := u.gainNow, ramp := u.ramp } ∧
          (u.sourceLost = true → t.sourceLost = false → u.gainNow = 0 ∧ u.ramp = none) ∧
          (u.sourceLost = t.sourceLost → u.gainNow = t.gainNow ∧ u.ramp = t.ramp) ∧
          (u.sourceLost = false → t.sourceLost = true → t.gainNow = 0 → t.ramp = none →
            u.gainNow = (if R = 0 then u.target else 0) ∧
            u.ramp = if u.target = 0 ∨ R = 0 then none else some ⟨0, u.target, R, 0⟩))

/-- The console's switch point: every record handled, left destinations released, counts changed once by the net, the
reports (R63, R65, R67, R80, R81, R82, R83, R95, R162). -/
def Obligations.TableAtASwitchPoint : Prop :=
  ∀ s : State, let t := s.consoleSwitchPoint
    t = { s with table := t.table, attn := t.attn } ∧
    (∀ i, t.table.slots.get i =
      (s.table.slots.get i).bind fun u => u.atSwitchPoint s.view s.gain.rampLength Dest.onConsole) ∧
    (∀ d, (∃ i u, s.table.holds i u ∧ ∃ e ∈ u.entries, e.dest = d ∧ d.onConsole = true ∧ e.phase.isLeaving = true) →
      t.table.ownerOf d = none) ∧
    (∀ d, (∀ i u, s.table.holds i u → ∀ e ∈ u.entries, e.dest = d → d.onConsole = true → e.phase.isLeaving = false) →
      t.table.ownerOf d = s.table.ownerOf d) ∧
    t.table.occupancy = s.table.occupancy + t.table.records - s.table.records ∧
    t.table.staged = s.table.staged + t.stagedItems - s.stagedItems ∧ (s.CountLaw → t.CountLaw) ∧
    s.attn.ReportsTable t.attn s.table t.table

/-- Reference frame starts: format and phase by R26, the console's switch point, then each FALLBACK lane's frame start
(R20, R21, R26, R27, R28, R29, R79, R80, R137, R139). Rests in part on the model's choices: log 5, log 6, log 10, log
23. -/
def Obligations.ReferenceFramesBegin : Prop :=
  (∀ s : State,
    let f := match s.ref.state with
      | .free => s.ref.freeRun
      | .locked => s.ref.candidate.getD s.ref.format
      | .holdover => s.ref.format
    let p := if f ≠ s.ref.format ∨ s.ref.align = true then 0 else (s.ref.phase + 1) % s.ref.format.cadence
    let r : RefUnit := { s.ref with
      format := f, phase := p, align := false, frameStart := s.now, emitted := 0, owed := false
      frameLength := match s.ref.state with
        | .free => f.samples p * Config.unitsPerSample
        | .locked => s.ref.lockedPeriod
        | .holdover => s.ref.holdover
      pace := match s.ref.state with
        | .free => f.nominal
        | .locked => s.ref.lockedPeriod
        | .holdover => s.ref.holdover }
    let lanes := (List.finRange 8).filter fun l => (s.tx.get l).mode = .fallback || (s.rx.get l).state != .locked
    s.beginReferenceFrame = lanes.foldl (fun w l => w.beginOutgoingFrame l .fallback f p false [])
      (State.consoleSwitchPoint { s.completeInstant with ref := r }) ∧
    s.beginReferenceFrame.ref = r ∧
    (∀ l ∈ lanes, s.beginReferenceFrame.tx.get l = { s.tx.get l with
      mode := .fallback, format := f, phase := p, plan := ⟨f.samples p, f.lines - 2⟩, lines := 0
      groups := (s.tx.get l).staged.getD (s.tx.get l).groups, staged := none, passing := false, store := []
      line := none, blanking := (s.beginReferenceFrame.tx.get l).blanking } ∧
      ((s.tx.get l).line = none → (s.beginReferenceFrame.tx.get l).blanking = (s.tx.get l).blanking)) ∧
    (∀ l, l ∉ lanes → s.beginReferenceFrame.tx.get l = s.tx.get l) ∧
    (s.table.Every Track.ListLaw → s.CountLaw → s.beginReferenceFrame.CountLaw) ∧
    s.beginReferenceFrame = { s with
      ref := r, tx := s.beginReferenceFrame.tx, table := s.beginReferenceFrame.table, attn := s.beginReferenceFrame.attn
      consoleOut := s.completeInstant.consoleOut })
  ∧ ∀ s : State, s.resetHeld = false →
    (s.ref.state = .locked → exec .referenceFrameStart s = .next s) ∧
    (s.ref.state ≠ .locked →
      let v := State.beginReferenceFrame { s with now := max s.now (s.ref.frameStart + s.ref.frameLength) }
      let changed : Bool := s.ref.state = .free && s.ref.freeRun != s.ref.format
      exec .referenceFrameStart s = .next { v with attn := v.attn.reportIf changed .referenceChange })

/-- REFERENCE_SAMPLE_INSTANT: one console frame with each owned channel's draw, one step of every ramp (R27, R80,
R104, R106, R122, R123, R152, R183). Rests in part on the model's choices: log 3, log 8, log 10, log 11, log 20. -/
def Obligations.InstantsDrawTheConsoleAndStepRamps : Prop :=
  ∀ (s : State) (early : BitVec 64), s.resetHeld = false →
    (s.ref.owed = false → s.ref.format.samples s.ref.phase ≤ s.ref.emitted →
      exec (.referenceSampleInstant early) s = .next s) ∧
    (s.ref.owed = false → s.completeInstant = s) ∧
    (s.ref.owed = true → exec (.referenceSampleInstant 0) s = .next s.completeInstant) ∧
    (s.ref.owed = true ∨ s.ref.emitted < s.ref.format.samples s.ref.phase →
      ∃ t : State, exec (.referenceSampleInstant early) s = .next t ∧
      t.ref = { s.ref with emitted := if s.ref.owed then s.ref.emitted else s.ref.emitted + 1, owed := false } ∧
      t.now = (if s.ref.owed then s.now else max s.now (s.ref.instantDue s.ref.emitted)) ∧
      t.consoleOut.length = 195 ∧ framed t.consoleOut = true ∧
      (∀ n, s.table.owning (.console n) = none → (consoleSamples t.consoleOut).get n = 0) ∧
      (∀ i, (t.table.slots.get i).isSome = (s.table.slots.get i).isSome) ∧
      (∀ i v u, s.table.holds i v → t.table.holds i u → u.gainNow = v.stepRamp.gainNow ∧ u.ramp = v.stepRamp.ramp ∧
        u.label = v.label ∧ u.source = v.source ∧ u.pendingSource = v.pendingSource ∧ u.sourceLost = v.sourceLost) ∧
      (s.table.Sound → ∀ i v u, s.table.holds i v → t.table.holds i u →
        u.entries.map (fun e => (e.dest, e.phase, e.taken)) = v.entries.map fun e => (e.dest, e.phase, e.taken)) ∧
      (s.table.Sound → ∀ n i v e, s.table.owning (.console n) = some (i, v, e) →
        ((consoleSamples t.consoleOut).get n).toInt = (if early.getLsbD n.1 then v else v.stepRamp).shape s.gain.rounding
          .w24 (v.drawn (s.sampleAt (v.effective e)) e) ∧
        ∃ u, t.table.holds i u ∧ u.entryFor (.console n) = some (v.entryDrawn (s.sampleAt (v.effective e)) e)) ∧
      (∀ i v u, s.table.holds i v → t.table.holds i u →
        u = { v.stepRamp with entries := u.entries, slipped := u.slipped, clipped := u.clipped }) ∧
      (s.table.Sound → ∀ i v u, s.table.holds i v → t.table.holds i u →
        u.entries = (v.entries.map fun e => match e.dest with
          | .console _ => v.entryDrawn (s.sampleAt (v.effective e)) e
          | .lane _ _ _ => e) ∧
        (u.slipped = true ↔ v.slipped = true ∨
          ∃ e ∈ v.entries, (∃ n, e.dest = .console n) ∧ v.keepsLag e = true ∧ e.lag = 0) ∧
        (u.clipped = true ↔ v.clipped = true ∨ ∃ e ∈ v.entries, ∃ n, e.dest = .console n ∧
          (if early.getLsbD n.1 then v else v.stepRamp).clips s.gain.rounding .w24
            (v.drawn (s.sampleAt (v.effective e)) e) = true)) ∧
      (s.table.Sound → s.attn.Reports t.attn .slip
        (∃ n i v e, s.table.owning (.console n) = some (i, v, e) ∧ v.keepsLag e = true ∧ e.lag = 0)) ∧
      t.table.map = s.table.map ∧ t.table.occupancy = s.table.occupancy ∧ t.table.staged = s.table.staged ∧
      t.rx = s.rx ∧ t.tx = s.tx ∧ t.console = s.console ∧ t.gain = s.gain ∧ t.port = s.port ∧ t.pending = s.pending)

/-- HOUSE_SWITCH_LINE and HOUSE_LOST: counting, locking, staying, leaving and losing the lock, frame starts and
reports (R17, R19, R22, R23, R24, R25, R26, R28, R80, R137). Rests in part on the model's choices: log 6, log 10, log
11. -/
def Obligations.HouseLinesMoveTheReference : Prop :=
  ∀ (s : State) (lines after : Nat), s.resetHeld = false →
    let now := s.now + after
    let period := now - s.ref.lastLine
    let cls := classify lines period
    let open' : RefUnit := { s.ref with present := true, lastLine := now, counted := true }
    let next (f : Format) : Nat :=
      if f ≠ s.ref.format ∨ s.ref.align = true then 0 else (s.ref.phase + 1) % s.ref.format.cadence
    let begun (now : Nat) (r : RefUnit) (changed : Bool) : State :=
      let v := State.beginReferenceFrame { s with now := now, ref := r }
      { v with attn := v.attn.reportIf changed .referenceChange }
    (s.ref.source ≠ .house → exec (.houseSwitchLine lines after) s = .next { s with now := now } ∧
      exec .houseLost s = .next s) ∧
    (s.ref.source = .house → s.ref.state = .holdover → s.ref.counted = false →
      exec (.houseSwitchLine lines after) s = .next { s with now := now, ref := open' }) ∧
    (s.ref.source = .house → s.ref.state = .holdover → s.ref.counted = true →
      (cls = none → exec (.houseSwitchLine lines after) s =
        .next { s with now := now, ref := { open' with candidate := none, count := 0 } }) ∧
      (∀ f, cls = some f → s.ref.candidate ≠ some f → exec (.houseSwitchLine lines after) s =
        .next { s with now := now, ref := { open' with candidate := some f, count := 1 } }) ∧
      (∀ f, cls = some f → s.ref.candidate = some f → s.ref.count = 1 →
        let t := begun now { open' with state := .locked, candidate := some f, count := 2, lockedPeriod := period } true
        exec (.houseSwitchLine lines after) s = .next t ∧ t.ref = { open' with
          state := .locked, candidate := some f, count := 2, lockedPeriod := period, format := f, phase := next f
          align := false, frameStart := now, frameLength := period, pace := period, emitted := 0, owed := false })) ∧
    (s.ref.source = .house → s.ref.state = .locked → s.ref.counted = true → s.ref.candidate = some s.ref.format →
      (cls = some s.ref.format →
        let t := begun now { open' with lockedPeriod := period } false
        exec (.houseSwitchLine lines after) s = .next t ∧ t.ref = { open' with
          lockedPeriod := period, phase := next s.ref.format, align := false, frameStart := now, frameLength := period
          pace := period, emitted := 0, owed := false }) ∧
      (cls ≠ some s.ref.format →
        let left : RefUnit := { open' with
          state := .holdover, holdover := s.ref.lockedPeriod, candidate := cls, count := if cls.isSome then 1 else 0 }
        let t := begun now left true
        exec (.houseSwitchLine lines after) s = .next t ∧ t.ref = { left with
          phase := next s.ref.format, align := false, frameStart := now, frameLength := s.ref.lockedPeriod
          pace := s.ref.lockedPeriod, emitted := 0, owed := false })) ∧
    (s.ref.source = .house → s.ref.present = true →
      let at' := max s.now (s.ref.lastLine + 4800 * Config.unitsPerSample)
      let gone : RefUnit := { s.ref with present := false, counted := false, candidate := none, count := 0 }
      (s.ref.state = .holdover → exec .houseLost s = .next { s with now := at', ref := gone }) ∧
      (s.ref.state = .locked →
        let t := begun at' { gone with state := .holdover, holdover := s.ref.lockedPeriod } true
        exec .houseLost s = .next t ∧ t.ref = { gone with
          state := .holdover, holdover := s.ref.lockedPeriod, phase := next s.ref.format, align := false
          frameStart := at', frameLength := s.ref.lockedPeriod, pace := s.ref.lockedPeriod, emitted := 0
          owed := false }))

/-- CONSOLE_FRAME_TAKEN: framing count, UP and DOWN, the windows, one arrival on each channel while UP (R46, R49, R50,
R101, R106, R108, R110, R160, R183). Rests in part on the model's choices: log 17. -/
def Obligations.ConsoleFramesMoveTheLink : Prop :=
  ∀ (s : State) (bytes : List Byte), s.resetHeld = false →
    let c := s.console
    let written : Bank Window 64 := Bank.ofFn fun n => (c.windows.get n).push
      (sampleOf (bytes.getD (3 + 3 * n.1) 0) (bytes.getD (3 + 3 * n.1 + 1) 0) (bytes.getD (3 + 3 * n.1 + 2) 0))
    let whole := bytes.length = 195 ∧ bytes.take 3 = [0xE1, 0x4B, 0x72]
    ∃ t : State, exec (.consoleFrameTaken bytes) s = .next t ∧
      t = { s with
        console := t.console, table := { s.table with slots := t.table.slots }, attn := t.attn } ∧
      (whole → c.up = true → t.console = ⟨true, 0, min (c.depth + 1) 16, written⟩ ∧
        (∀ i, t.table.slots.get i = (s.table.slots.get i).map fun u => u.arrive ofConsole (min (c.depth + 1) 16)) ∧
        s.attn.Reports t.attn .slip (∃ i v, s.table.holds i v ∧ ∃ e ∈ v.entries, (∃ n, v.effective e = .console n) ∧
          e.phase.manner = some .active ∧ 16 ≤ e.lag)) ∧
      (whole → c.up = false → c.count = 1 → t.console = ⟨true, 0, 0, written⟩ ∧ t.attn = s.attn ∧
        ∀ i, t.table.slots.get i = (s.table.slots.get i).map fun u => u.comeBack t.view s.gain.rampLength ofConsole) ∧
      (whole → c.up = false → c.count ≠ 1 → t = { s with console := ⟨false, c.count + 1, c.depth, written⟩ }) ∧
      (¬whole → c.up = false → t = { s with console := { c with count := 0 } }) ∧
      (¬whole → c.up = true → c.count = 1 → t.console = { c with up := false, count := 0, depth := 0 } ∧
        (∀ i, t.table.slots.get i = (s.table.slots.get i).map fun u => u.lose ofConsole) ∧
        s.attn.Reports t.attn .sourceLost (s.table.NewlyLost t.table)) ∧
      (¬whole → c.up = true → c.count ≠ 1 → t = { s with console := { c with count := c.count + 1 } })

/-- LANE_SWITCH_LINE and LANE_FEED_LOST: receive states, lock count, group presence, sources lost and back, line
handed on (R33, R34, R35, R36, R37, R42, R43, R44, R47, R108, R110, R135). Rests in part on the model's choices: log
9, log 11. -/
def Obligations.LaneLinesMoveTheReceiver : Prop :=
  ∀ (s : State) (l : Fin 8) (lines after : Nat), s.resetHeld = false →
    let rx := s.rx.get l
    let now := s.now + after
    let cls := classify lines (now - rx.lastLine)
    let clear (g : GroupRx) : GroupRx := { g with validSeen := false, damagedSeen := false }
    let absent (g : GroupRx) : GroupRx := { clear g with present := false, hysteresis := 0, depth := 0 }
    let classed (g : GroupRx) : GroupRx :=
      let good := g.validSeen && !g.damagedSeen
      if good = g.present then { clear g with hysteresis := 0 }
      else if g.hysteresis = 0 then { clear g with hysteresis := 1 }
      else { clear g with present := good, hysteresis := 0, depth := 0 }
    let changed (a : LaneRx) : Prop :=
      a.state ≠ rx.state ∨ ∃ g, (a.groups.get g).present ≠ (rx.groups.get g).present
    let moved (t : State) (u : Track) : Track := [0, 1, 2, 3].foldl (fun u g =>
      let was := rx.state = .locked && (rx.groups.get g).present
      let is := (t.rx.get l).state = .locked && ((t.rx.get l).groups.get g).present
      if was && !is then u.lose (ofGroup l g)
      else if !was && is then u.comeBack t.view s.gain.rampLength (ofGroup l g)
      else u) u
    let toTable (t : State) : Prop := t.table = { s.table with slots := t.table.slots } ∧
      (∀ i, t.table.slots.get i = (s.table.slots.get i).map (moved t)) ∧
      ∃ a, s.attn.Reports a .sourceLost (s.table.NewlyLost t.table) ∧ a.Reports t.attn .laneChange (changed (t.rx.get l))
    (∃ t : State, exec (.laneSwitchLine l lines after) s = .next t ∧ t.now = now ∧ t.rx = s.rx.set l (t.rx.get l) ∧
      t.console = s.console ∧ t.gain = s.gain ∧ t.port = s.port ∧
      (t.tx.get l).handed = (s.tx.get l).handed ++ (if rx.state = .locked then [⟨(t.rx.get l).format, []⟩] else []) ∧
      (rx.state = .noSignal → t.rx.get l = ⟨.seeking, none, none, 0, none, now, rx.groups⟩) ∧
      (rx.state = .seeking → cls = none → t.rx.get l = ⟨.seeking, rx.format, none, 0, none, now, rx.groups⟩) ∧
      (∀ f, rx.state = .seeking → cls = some f → rx.candidate ≠ some f →
        t.rx.get l = ⟨.seeking, rx.format, some f, 1, none, now, rx.groups⟩) ∧
      (∀ f, rx.state = .seeking → cls = some f → rx.candidate = some f → rx.count = 1 →
        t.rx.get l = ⟨.locked, some f, some f, 2, none, now, rx.groups.map clear⟩) ∧
      (∀ f, rx.state = .locked → rx.format = some f → cls = some f →
        t.rx.get l = ⟨.locked, some f, rx.candidate, rx.count, none, now, rx.groups.map classed⟩) ∧
      (∀ f, rx.state = .locked → rx.format = some f → cls ≠ some f →
        t.rx.get l = ⟨.seeking, none, cls, if cls.isSome then 1 else 0, none, now, rx.groups.map absent⟩) ∧
      (s.attn.selectorA = some .laneChange → (t.attn.requestA = true ↔ s.attn.requestA = true ∨ changed (t.rx.get l))) ∧
      (s.ref.source ≠ .lane l → toTable t ∧ t = { s with
        now := now, rx := t.rx, table := t.table, attn := t.attn
        tx := s.tx.set l { s.tx.get l with handed := (t.tx.get l).handed } })) ∧
    (rx.state = .noSignal → exec (.laneFeedLost l) s = .next s) ∧
    (rx.state ≠ .noSignal → ∃ t : State, exec (.laneFeedLost l) s = .next t ∧
      t.now = max s.now (rx.lastLine + 4800 * Config.unitsPerSample) ∧ t.rx = s.rx.set l ⟨.noSignal, none, none, 0, none,
        rx.lastLine, if rx.state = .locked then rx.groups.map absent else rx.groups⟩ ∧
      t.console = s.console ∧ t.gain = s.gain ∧ t.port = s.port ∧
      (s.attn.selectorA = some .laneChange → t.attn.requestA = true) ∧
      (s.ref.source ≠ .lane l → toTable t ∧ t = { s with
        now := t.now, rx := t.rx, table := t.table, attn := t.attn
        tx := s.tx.set l { s.tx.get l with handed := [], passing := false, store := [] } }))

/-- PACKET_TAKEN, PACKET_CUT_OFF, COUNT_FIELD_DAMAGED: arrivals of a valid packet, its keeping for PASS, the mark of a
damaged one (R3, R38, R39, R40, R41, R44, R46, R48, R101, R106, R143). Rests in part on the model's choices: log 9. -/
def Obligations.PacketsArriveOrDamage : Prop :=
  ∀ (s : State) (l : Fin 8) (line : Nat) (bytes : List Byte), s.resetHeld = false →
    let rx := s.rx.get l
    let tx := s.tx.get l
    let mark (g : GroupRx) : GroupRx := { g with damagedSeen := true }
    let marked (field : Option Byte) : Bank GroupRx 4 := Bank.ofFn fun g =>
      if field.all (fun b => b.toNat = g.1 + 1 ∨ b.toNat = 0 ∨ 4 < b.toNat) then mark (rx.groups.get g)
      else rx.groups.get g
    let damaged (field : Option Byte) : State := { s with rx := s.rx.set l { rx with groups := marked field } }
    (rx.state ≠ .locked ∨ line < 3 → exec (.packetTaken l line bytes) s = .next s ∧
      exec (.packetCutOff l line bytes) s = .next s ∧ exec (.countFieldDamaged l line bytes) s = .next s) ∧
    (rx.state = .locked → 3 ≤ line →
      (∀ field, search bytes = .cutOff field → exec (.packetCutOff l line bytes) s = .next (damaged field)) ∧
      (∀ field, search bytes = .countDamaged field →
        exec (.countFieldDamaged l line bytes) s = .next (damaged (some field))) ∧
      ∀ p f, search bytes = .taken p → rx.format = some f →
        let valid := sumBytes p.bytes % 256 = 0 ∧ 1 ≤ p.group.toNat ∧ p.group.toNat ≤ 4 ∧ p.phase.toNat < f.cadence
        (¬valid → exec (.packetTaken l line bytes) s = .next (damaged (some p.group))) ∧
        (valid → ∃ t : State, exec (.packetTaken l line bytes) s = .next t ∧
          t = { s with
            rx := s.rx.set l (t.rx.get l), tx := s.tx.set l (t.tx.get l), attn := t.attn
            table := { s.table with slots := t.table.slots } } ∧
          (t.rx.get l).arrivingPhase = some (rx.arrivingPhase.getD p.phase.toNat) ∧
          t.rx.get l = { rx with arrivingPhase := (t.rx.get l).arrivingPhase, groups := (t.rx.get l).groups } ∧
          (∀ g : Fin 4, g.1 + 1 ≠ p.group.toNat → (t.rx.get l).groups.get g = rx.groups.get g) ∧
          (∀ g : Fin 4, g.1 + 1 = p.group.toNat →
            let kept : TakenPacket := ⟨line, g, p.bytes⟩
            let depth := (rx.groups.get g).depth
            let arrivals (j : Nat) (u : Track) : Track :=
              (List.range j).foldl (fun u i => u.arrive (ofGroup l g) (min (depth + i + 1) 16)) u
            let k := p.count.toNat % 16
            (tx.handed = [] → tx.mode = .follow → tx.passing = true →
              t.tx.get l = { tx with store := tx.store ++ [kept] }) ∧
            (tx.handed = [] → tx.mode = .fallback ∨ tx.passing = false → t.tx.get l = tx) ∧
            (∀ hs h, tx.handed = hs ++ [h] →
              t.tx.get l = { tx with handed := hs ++ [{ h with packets := h.packets ++ [kept] }] }) ∧
            ((rx.groups.get g).present = false → t.table = s.table ∧ t.attn = s.attn) ∧
            (depth ≤ 16 → (t.rx.get l).groups.get g = { rx.groups.get g with
              validSeen := true
              depth := if (rx.groups.get g).present then min (depth + k) 16 else depth
              windows := Bank.ofFn fun c => p.sets.foldl (fun w set => w.push (set.get c))
                ((rx.groups.get g).windows.get c) }) ∧
            (depth ≤ 16 → (rx.groups.get g).present = true →
              (∀ i, t.table.slots.get i = (s.table.slots.get i).map (arrivals k)) ∧
              s.attn.Reports t.attn .slip (∃ i v j, s.table.holds i v ∧ j < k ∧
                ∃ e ∈ (arrivals j v).entries, ofGroup l g (v.effective e) = true ∧ e.phase.manner = some .active ∧
                  16 ≤ e.lag)))))

/-- Outgoing frame starts: format, phase, plan, the staged setting landed, the lane's switch point with its reports
(R10, R11, R63, R79, R81, R83, R135, R138, R140, R141). Rests in part on the model's choices: log 9, log 11, log 18.
-/
def Obligations.OutgoingFramesBegin : Prop :=
  (∀ (s : State) (l : Fin 8) (mode : TxMode) (f : Format) (p : Nat) (passing : Bool) (store : List TakenPacket),
    let u := s.finishLine l
    let tx := u.tx.get l
    let t := s.beginOutgoingFrame l mode f p passing store
    ((s.tx.get l).line = none → u = s) ∧
    (∃ slips : Bool, u = { s with
      tx := s.tx.set l { s.tx.get l with line := none, blanking := tx.blanking }
      table := { s.table with slots := u.table.slots }, attn := s.attn.reportIf slips .slip }) ∧
    t = { u with
      tx := u.tx.set l { tx with
        mode := mode, format := f, phase := p, plan := ⟨f.samples p, f.lines - 2⟩, lines := 0
        groups := tx.staged.getD tx.groups, staged := none, passing := passing, store := store }
      table := t.table, attn := t.attn } ∧
    (∀ i, t.table.slots.get i = (u.table.slots.get i).bind fun v =>
      v.atSwitchPoint u.view u.gain.rampLength (Dest.onLane l)) ∧
    (∀ d, (∃ i v, u.table.holds i v ∧ ∃ e ∈ v.entries, e.dest = d ∧ d.onLane l = true ∧ e.phase.isLeaving = true) →
      t.table.ownerOf d = none) ∧
    (∀ d, (∀ i v, u.table.holds i v → ∀ e ∈ v.entries, e.dest = d → d.onLane l = true → e.phase.isLeaving = false) →
      t.table.ownerOf d = u.table.ownerOf d) ∧
    t.table.occupancy = u.table.occupancy + t.table.records - u.table.records ∧
    t.table.staged = u.table.staged + t.stagedItems - u.stagedItems ∧ (u.CountLaw → t.CountLaw) ∧
    u.attn.ReportsTable t.attn u.table t.table)
  ∧ ∀ (s : State) (l : Fin 8), s.resetHeld = false →
    ((s.tx.get l).handed = [] → exec (.outgoingFrameStart l) s = .next s) ∧
    ∀ h rest, (s.tx.get l).handed = h :: rest →
      let tx := s.tx.get l
      let f := h.format.getD tx.format
      let p := match (s.rx.get l).arrivingPhase with
        | some p => p
        | none => if f = tx.format then (tx.phase + 1) % f.cadence else 0
      exec (.outgoingFrameStart l) s = .next (State.beginOutgoingFrame
        { s with tx := s.tx.set l { tx with handed := rest } } l .follow f p h.format.isSome h.packets)

/-- LINE_REACHED and FLAT_LINE_REACHED: built packets of the EMBED groups in order, then passed ones that fit (R3, R8,
R12, R64, R136, R139, R142, R143, R144, R145). Rests in part on the model's choices: log 9, log 10, log 11, log 20. -/
def Obligations.LinesCarryTheirPackets : Prop :=
  (∀ (s : State) (l : Fin 8) (a : Nat), s.resetHeld = false → (s.tx.get l).line = none →
    let tx := s.tx.get l
    let k := if tx.lines < 2 then 0 else tx.plan.share (tx.lines - 2)
    let embeds := [0, 1, 2, 3].filter fun g : Fin 4 => (tx.groups.get g).disposition = .embed
    let passed (n : Nat) : List (List Byte) := if tx.mode = .fallback ∨ tx.lines < 2 then [] else
      (tx.store.filter fun p => p.line = n && (tx.groups.get p.group).disposition = .pass).map (·.bytes)
    let whole (u : State) (flat : Bool) (n : Nat) : State :=
      let built := if k = 0 then ([], u) else u.buildGroups l k embeds
      { built.2 with tx := u.tx.set l { tx with
        lines := tx.lines + 1, flat := flat, store := tx.store.filter fun p => p.line ≠ n
        blanking := built.1.flatten ++ fitPackets (216 - built.1.flatten.length) (passed n) } }
    let instant := tx.lines * tx.plan.samples / (tx.plan.carriage + 2)
    let left := s.ref.emitted < s.ref.format.samples s.ref.phase
    (tx.mode = .follow → exec (.lineReached l ⟨a, none⟩) s = .next (whole s false a) ∧
      exec (.flatLineReached l ⟨a, none⟩) s = .next (whole s true a)) ∧
    (tx.mode = .fallback →
      (∀ reach, exec (.flatLineReached l reach) s = .next s) ∧
      (tx.lines < tx.plan.carriage + 2 → instant < s.ref.emitted →
        exec (.lineReached l ⟨a, none⟩) s = .next (whole s true 0)) ∧
      (tx.lines < tx.plan.carriage + 2 → instant = s.ref.emitted → left →
        let u := s.completeInstant
        exec (.lineReached l ⟨a, none⟩) s = .next (whole { u with
          now := max s.now (s.ref.instantDue s.ref.emitted)
          ref := { s.ref with emitted := s.ref.emitted + 1, owed := true } } true 0)) ∧
      (tx.plan.carriage + 2 ≤ tx.lines ∨ s.ref.emitted < instant ∨ instant = s.ref.emitted ∧ ¬left →
        ∀ reach, exec (.lineReached l reach) s = .next s)))
  ∧ (∀ (s : State) (w : WordLength) (ds : List Dest),
    (s.draws w ds).1.length = ds.length ∧
    (∃ slips : Bool, (s.draws w ds).2 = { s with
      table := { s.table with slots := (s.draws w ds).2.table.slots }, attn := s.attn.reportIf slips .slip }) ∧
    ∀ i d, ds[i]? = some d → ∃ v, (s.draws w ds).1[i]? = some v ∧ v = ((s.draws w (ds.take i)).2.draw d w).1 ∧
      (w.lowest ≤ v ∧ v ≤ w.highest) ∧ (s.table.ownerOf d = none → v = 0))
  ∧ ∀ (s : State) (l : Fin 8) (k : Nat) (gs : List (Fin 4)) (j : Nat) (g : Fin 4), gs[j]? = some g →
    let word := ((s.tx.get l).groups.get g).word
    let before := (s.buildGroups l k (gs.take j)).2
    let drawn := before.draws word (packetDests l g k)
    (s.buildGroups l k gs).1[j]? = some (buildPacket g (s.tx.get l).phase k word drawn.1) ∧
    (s.buildGroups l k (gs.take (j + 1))).2 = drawn.2 ∧ (s.buildGroups l k gs).1.length = gs.length

/-- A packet the part builds is taken, valid, by a lane receiver and gives its samples back; so does a console frame
(R39, R41, R145, R182, R183). -/
def Obligations.BuiltPacketsReadBack : Prop :=
  (∀ (g : Fin 4) (phase k : Nat) (w : WordLength) (values : List Int) (rest : List Byte), phase < 5 → 1 ≤ k → k ≤ 4 →
    values.length = 4 * k → (∀ v ∈ values, w.lowest ≤ v ∧ v ≤ w.highest) →
    (buildPacket g phase k w values).length = 6 + 12 * k ∧
    ∃ p, search (buildPacket g phase k w values ++ rest) = .taken p ∧ p.bytes = buildPacket g phase k w values ∧
      (∀ Q, p.valid Q = true ↔ phase < Q) ∧ readNumber 4 p.group = some g ∧ p.phase.toNat = phase ∧
      countOf p.count = k ∧ p.flag20 = decide (w = .w20) ∧ p.sets.length = k ∧
      ∀ i (h : i < p.sets.length) (c : Fin 4),
        ((p.sets[i]).get c).toInt = (if w = .w20 then 16 else 1) * values.getD (4 * i + c.1) 0)
  ∧ ∀ values : List Int, values.length = 64 → (∀ v ∈ values, -8388608 ≤ v ∧ v ≤ 8388607) →
    framed (consoleFrame values) = true ∧ (consoleFrame values).length = 195 ∧
    ∀ n : Fin 64, ((consoleSamples (consoleFrame values)).get n).toInt = values.getD n.1 0

/-- Request A by the selected occurrence only, request B by a crossing of T in the selected direction only (R160,
R161, R162, R165). -/
def Obligations.OccurrencesSetRequests : Prop :=
  (∀ (a : Attention) (o : Occurrence), a.report o =
    { a with requestA := a.requestA || decide (a.selectorA = some o) })
  ∧ (∀ (a : Attention) (before after : Nat),
      let crosses : Bool := a.selectorB = .rising ∧ before ≤ a.threshold ∧ a.threshold < after ∨
        a.selectorB = .falling ∧ a.threshold < before ∧ after ≤ a.threshold
      a.reportOccupancy before after = { a with requestB := a.requestB || crosses })
  ∧ (∀ b : Byte, readSelectorB b = none ↔ 2 < b.toNat)
  ∧ (∀ (a : Attention) (before after : Nat), a.threshold = 256 → before ≤ 256 → after ≤ 256 →
    a.reportOccupancy before after = a)
  ∧ (∀ (a : Attention) (m n : Nat), a.threshold = 0 →
    (a.selectorB = .rising → m = 0 → 0 < n → (a.reportOccupancy m n).requestB = true) ∧
    (a.selectorB = .falling → 0 < m → n = 0 → (a.reportOccupancy m n).requestB = true))

/-- The state at the release of the reset line meets every law of the model (R180, R63, R66, R114, R124, R146). -/
def Obligations.ResetMeetsEveryLaw : Prop :=
  State.reset.table.Sound ∧ State.reset.table.Every Track.LagLaw ∧ State.reset.table.Every Track.GainLaw ∧
  State.reset.table.Every Track.ChangeLaw ∧ State.reset.table.Every Track.RetiringLaw ∧ State.reset.CountLaw ∧
  State.reset.EmbedLaw ∧ State.reset.SettingsLaw ∧ State.reset.LanesSound ∧ State.reset.console.Sound ∧
  State.reset.ref.Sound ∧ State.reset.port.Sound

/-- Every step keeps lists, placement and map: 8 entries, own set, one record a label, and the map names exactly the
lists (R54, R56, R63). -/
def Obligations.StepsKeepTheTableSound : Prop :=
  ∀ s t : State, s.table.Sound → step s = .next t → t.table.Sound

/-- Every step keeps the laws on lag, on gain, on staged source changes and on retiring tracks (R92, R96, R114, R124).
-/
def Obligations.StepsKeepTheTrackLaws : Prop :=
  ∀ s t : State, step s = .next t →
    (s.table.Every Track.LagLaw → t.table.Every Track.LagLaw) ∧
    (s.table.Every Track.GainLaw → t.table.Every Track.GainLaw) ∧
    (s.table.Every Track.ChangeLaw → t.table.Every Track.ChangeLaw) ∧
    (s.table.Every Track.RetiringLaw → t.table.Every Track.RetiringLaw)

/-- Every step keeps both counts right and every held lane destination in an EMBED group (R65, R66, R146, R148). -/
def Obligations.StepsKeepCountsAndEmbedding : Prop :=
  ∀ s t : State, s.table.Sound → step s = .next t → (s.CountLaw → t.CountLaw) ∧ (s.EmbedLaw → t.EmbedLaw)

/-- Every step keeps receivers, console link, reference unit, settings and port within the bounds the spec gives them
(R16, R27, R32, R34, R36, R43, R46, R49, R117, R159, R171). -/
def Obligations.StepsKeepTheBlocksInBounds : Prop :=
  ∀ s t : State, step s = .next t → (s.LanesSound → t.LanesSound) ∧ (s.console.Sound → t.console.Sound) ∧
    (s.ref.Sound → t.ref.Sound) ∧ (s.SettingsLaw → t.SettingsLaw) ∧ (s.port.Sound → t.port.Sound)
end

