-- ==== Sys2Proof/Laws/Bank.lean ====
section
/-! SUPPORT. Laws of banks: what a place reads after each operation. -/

namespace Sys2Proof.Machine

theorem Bank.get_eq_getElem (b : Bank α n) (i : Fin n) : b.get i = b.cells[i.1]'(b.size.symm ▸ i.2) := rfl

/-- Two banks with the same thing in every place are one. -/
theorem Bank.ext_get {a b : Bank α n} (h : ∀ i, a.get i = b.get i) : a = b := by
  cases a with | mk ca ha => cases b with | mk cb hb =>
  have : ca = cb := List.ext_getElem (ha.trans hb.symm) fun i h1 _ => h ⟨i, ha ▸ h1⟩
  subst this; rfl

@[simp] theorem Bank.get_set_self (b : Bank α n) (i : Fin n) (x : α) : (b.set i x).get i = x := by
  simp [Bank.get_eq_getElem, Bank.set]

@[simp] theorem Bank.get_set_ne (b : Bank α n) {i j : Fin n} (x : α) (h : i ≠ j) : (b.set i x).get j = b.get j := by
  have : i.1 ≠ j.1 := fun e => h (Fin.ext e)
  simp [Bank.get_eq_getElem, Bank.set, this]

theorem Bank.get_set (b : Bank α n) (i j : Fin n) (x : α) :
    (b.set i x).get j = if i = j then x else b.get j := by
  by_cases h : i = j
  · subst h; simp
  · simp [h]

@[simp] theorem Bank.get_map (f : α → β) (b : Bank α n) (i : Fin n) : (b.map f).get i = f (b.get i) := by
  simp [Bank.get_eq_getElem, Bank.map]

@[simp] theorem Bank.get_fill (n : Nat) (x : α) (i : Fin n) : (Bank.fill n x).get i = x := by
  simp [Bank.get_eq_getElem, Bank.fill]

@[simp] theorem Bank.get_ofFn (f : Fin n → α) (i : Fin n) : (Bank.ofFn f).get i = f i := by
  simp [Bank.get_eq_getElem, Bank.ofFn]

@[simp] theorem Bank.get_modify_self (b : Bank α n) (i : Fin n) (f : α → α) : (b.modify i f).get i = f (b.get i) := by
  simp [Bank.modify]

@[simp] theorem Bank.get_modify_ne (b : Bank α n) {i j : Fin n} (f : α → α) (h : i ≠ j) :
    (b.modify i f).get j = b.get j := by simp [Bank.modify, h]

@[simp] theorem Bank.set_get (b : Bank α n) (i : Fin n) : b.set i (b.get i) = b :=
  Bank.ext_get fun j => by rw [Bank.get_set]; split <;> simp_all

@[simp] theorem Bank.set_set (b : Bank α n) (i : Fin n) (x y : α) : (b.set i x).set i y = b.set i y :=
  Bank.ext_get fun j => by simp only [Bank.get_set]; split <;> rfl

/-- What a bank's cells hold is what its places read. -/
theorem Bank.mem_cells {b : Bank α n} {x : α} : x ∈ b.cells ↔ ∃ i, b.get i = x := by
  constructor
  · intro h
    obtain ⟨i, hi, rfl⟩ := List.mem_iff_getElem.1 h
    exact ⟨⟨i, b.size ▸ hi⟩, rfl⟩
  · rintro ⟨i, rfl⟩
    exact List.getElem_mem _

/-- The newest position after a push. -/
theorem Bank.get_push_zero (b : Bank α (n + 1)) (x : α) : (b.push x).get 0 = x := by
  simp [Bank.get_eq_getElem, Bank.push]

/-- Every other position holds what stood one place ahead of it. -/
theorem Bank.get_push_succ (b : Bank α (n + 1)) (x : α) (i : Fin n) : (b.push x).get i.succ = b.get i.castSucc := by
  simp [Bank.get_eq_getElem, Bank.push]

end Sys2Proof.Machine
end

