-- ==== Sys2Proof/Laws/State.lean ====
section
/-! SUPPORT. What each update of the state does to each field, so that no proof unfolds a record update. -/

namespace Sys2Proof.Machine

variable (s : State)

@[simp] theorem State.withRef_pending (r : RefUnit) : (s.withRef r).pending = s.pending := rfl
@[simp] theorem State.withRef_resetHeld (r : RefUnit) : (s.withRef r).resetHeld = s.resetHeld := rfl
@[simp] theorem State.withRef_now (r : RefUnit) : (s.withRef r).now = s.now := rfl
@[simp] theorem State.withRef_ref (r : RefUnit) : (s.withRef r).ref = r := rfl
@[simp] theorem State.withRef_rx (r : RefUnit) : (s.withRef r).rx = s.rx := rfl
@[simp] theorem State.withRef_console (r : RefUnit) : (s.withRef r).console = s.console := rfl
@[simp] theorem State.withRef_table (r : RefUnit) : (s.withRef r).table = s.table := rfl
@[simp] theorem State.withRef_gain (r : RefUnit) : (s.withRef r).gain = s.gain := rfl
@[simp] theorem State.withRef_tx (r : RefUnit) : (s.withRef r).tx = s.tx := rfl
@[simp] theorem State.withRef_consoleOut (r : RefUnit) : (s.withRef r).consoleOut = s.consoleOut := rfl
@[simp] theorem State.withRef_attn (r : RefUnit) : (s.withRef r).attn = s.attn := rfl
@[simp] theorem State.withRef_port (r : RefUnit) : (s.withRef r).port = s.port := rfl

@[simp] theorem State.setTx_pending (l : Fin 8) (x : LaneTx) : (s.setTx l x).pending = s.pending := rfl
@[simp] theorem State.setTx_resetHeld (l : Fin 8) (x : LaneTx) : (s.setTx l x).resetHeld = s.resetHeld := rfl
@[simp] theorem State.setTx_now (l : Fin 8) (x : LaneTx) : (s.setTx l x).now = s.now := rfl
@[simp] theorem State.setTx_ref (l : Fin 8) (x : LaneTx) : (s.setTx l x).ref = s.ref := rfl
@[simp] theorem State.setTx_rx (l : Fin 8) (x : LaneTx) : (s.setTx l x).rx = s.rx := rfl
@[simp] theorem State.setTx_console (l : Fin 8) (x : LaneTx) : (s.setTx l x).console = s.console := rfl
@[simp] theorem State.setTx_table (l : Fin 8) (x : LaneTx) : (s.setTx l x).table = s.table := rfl
@[simp] theorem State.setTx_gain (l : Fin 8) (x : LaneTx) : (s.setTx l x).gain = s.gain := rfl
@[simp] theorem State.setTx_tx (l : Fin 8) (x : LaneTx) : (s.setTx l x).tx = s.tx.set l x := rfl
@[simp] theorem State.setTx_consoleOut (l : Fin 8) (x : LaneTx) : (s.setTx l x).consoleOut = s.consoleOut := rfl
@[simp] theorem State.setTx_attn (l : Fin 8) (x : LaneTx) : (s.setTx l x).attn = s.attn := rfl
@[simp] theorem State.setTx_port (l : Fin 8) (x : LaneTx) : (s.setTx l x).port = s.port := rfl

@[simp] theorem State.setRx_pending (l : Fin 8) (x : LaneRx) : (s.setRx l x).pending = s.pending := rfl
@[simp] theorem State.setRx_resetHeld (l : Fin 8) (x : LaneRx) : (s.setRx l x).resetHeld = s.resetHeld := rfl
@[simp] theorem State.setRx_now (l : Fin 8) (x : LaneRx) : (s.setRx l x).now = s.now := rfl
@[simp] theorem State.setRx_ref (l : Fin 8) (x : LaneRx) : (s.setRx l x).ref = s.ref := rfl
@[simp] theorem State.setRx_rx (l : Fin 8) (x : LaneRx) : (s.setRx l x).rx = s.rx.set l x := rfl
@[simp] theorem State.setRx_console (l : Fin 8) (x : LaneRx) : (s.setRx l x).console = s.console := rfl
@[simp] theorem State.setRx_table (l : Fin 8) (x : LaneRx) : (s.setRx l x).table = s.table := rfl
@[simp] theorem State.setRx_gain (l : Fin 8) (x : LaneRx) : (s.setRx l x).gain = s.gain := rfl
@[simp] theorem State.setRx_tx (l : Fin 8) (x : LaneRx) : (s.setRx l x).tx = s.tx := rfl
@[simp] theorem State.setRx_consoleOut (l : Fin 8) (x : LaneRx) : (s.setRx l x).consoleOut = s.consoleOut := rfl
@[simp] theorem State.setRx_attn (l : Fin 8) (x : LaneRx) : (s.setRx l x).attn = s.attn := rfl
@[simp] theorem State.setRx_port (l : Fin 8) (x : LaneRx) : (s.setRx l x).port = s.port := rfl

@[simp] theorem State.elapse_pending (after : Nat) : (s.elapse after).pending = s.pending := rfl
@[simp] theorem State.elapse_resetHeld (after : Nat) : (s.elapse after).resetHeld = s.resetHeld := rfl
@[simp] theorem State.elapse_now (after : Nat) : (s.elapse after).now = s.now + after := rfl
@[simp] theorem State.elapse_ref (after : Nat) : (s.elapse after).ref = s.ref := rfl
@[simp] theorem State.elapse_rx (after : Nat) : (s.elapse after).rx = s.rx := rfl
@[simp] theorem State.elapse_console (after : Nat) : (s.elapse after).console = s.console := rfl
@[simp] theorem State.elapse_table (after : Nat) : (s.elapse after).table = s.table := rfl
@[simp] theorem State.elapse_gain (after : Nat) : (s.elapse after).gain = s.gain := rfl
@[simp] theorem State.elapse_tx (after : Nat) : (s.elapse after).tx = s.tx := rfl
@[simp] theorem State.elapse_consoleOut (after : Nat) : (s.elapse after).consoleOut = s.consoleOut := rfl
@[simp] theorem State.elapse_attn (after : Nat) : (s.elapse after).attn = s.attn := rfl
@[simp] theorem State.elapse_port (after : Nat) : (s.elapse after).port = s.port := rfl

@[simp] theorem State.reach_pending (due : Nat) : (s.reach due).pending = s.pending := rfl
@[simp] theorem State.reach_resetHeld (due : Nat) : (s.reach due).resetHeld = s.resetHeld := rfl
@[simp] theorem State.reach_now (due : Nat) : (s.reach due).now = max s.now due := rfl
@[simp] theorem State.reach_ref (due : Nat) : (s.reach due).ref = s.ref := rfl
@[simp] theorem State.reach_rx (due : Nat) : (s.reach due).rx = s.rx := rfl
@[simp] theorem State.reach_console (due : Nat) : (s.reach due).console = s.console := rfl
@[simp] theorem State.reach_table (due : Nat) : (s.reach due).table = s.table := rfl
@[simp] theorem State.reach_gain (due : Nat) : (s.reach due).gain = s.gain := rfl
@[simp] theorem State.reach_tx (due : Nat) : (s.reach due).tx = s.tx := rfl
@[simp] theorem State.reach_consoleOut (due : Nat) : (s.reach due).consoleOut = s.consoleOut := rfl
@[simp] theorem State.reach_attn (due : Nat) : (s.reach due).attn = s.attn := rfl
@[simp] theorem State.reach_port (due : Nat) : (s.reach due).port = s.port := rfl

@[simp] theorem State.answer_pending (c : Command) (r : Result) (data : List Byte) : (s.answer c r data).pending = s.pending := rfl
@[simp] theorem State.answer_resetHeld (c : Command) (r : Result) (data : List Byte) : (s.answer c r data).resetHeld = s.resetHeld := rfl
@[simp] theorem State.answer_now (c : Command) (r : Result) (data : List Byte) : (s.answer c r data).now = s.now := rfl
@[simp] theorem State.answer_ref (c : Command) (r : Result) (data : List Byte) : (s.answer c r data).ref = s.ref := rfl
@[simp] theorem State.answer_rx (c : Command) (r : Result) (data : List Byte) : (s.answer c r data).rx = s.rx := rfl
@[simp] theorem State.answer_console (c : Command) (r : Result) (data : List Byte) : (s.answer c r data).console = s.console := rfl
@[simp] theorem State.answer_table (c : Command) (r : Result) (data : List Byte) : (s.answer c r data).table = s.table := rfl
@[simp] theorem State.answer_gain (c : Command) (r : Result) (data : List Byte) : (s.answer c r data).gain = s.gain := rfl
@[simp] theorem State.answer_tx (c : Command) (r : Result) (data : List Byte) : (s.answer c r data).tx = s.tx := rfl
@[simp] theorem State.answer_consoleOut (c : Command) (r : Result) (data : List Byte) : (s.answer c r data).consoleOut = s.consoleOut := rfl
@[simp] theorem State.answer_attn (c : Command) (r : Result) (data : List Byte) : (s.answer c r data).attn = s.attn := rfl
@[simp] theorem State.answer_port (c : Command) (r : Result) (data : List Byte) : (s.answer c r data).port = { s.port with held := ⟨c.code, r, data⟩ } := rfl

@[simp] theorem State.refuse_pending (c : Command) (r : Result) : (s.refuse c r).pending = s.pending := rfl
@[simp] theorem State.refuse_resetHeld (c : Command) (r : Result) : (s.refuse c r).resetHeld = s.resetHeld := rfl
@[simp] theorem State.refuse_now (c : Command) (r : Result) : (s.refuse c r).now = s.now := rfl
@[simp] theorem State.refuse_ref (c : Command) (r : Result) : (s.refuse c r).ref = s.ref := rfl
@[simp] theorem State.refuse_rx (c : Command) (r : Result) : (s.refuse c r).rx = s.rx := rfl
@[simp] theorem State.refuse_console (c : Command) (r : Result) : (s.refuse c r).console = s.console := rfl
@[simp] theorem State.refuse_table (c : Command) (r : Result) : (s.refuse c r).table = s.table := rfl
@[simp] theorem State.refuse_gain (c : Command) (r : Result) : (s.refuse c r).gain = s.gain := rfl
@[simp] theorem State.refuse_tx (c : Command) (r : Result) : (s.refuse c r).tx = s.tx := rfl
@[simp] theorem State.refuse_consoleOut (c : Command) (r : Result) : (s.refuse c r).consoleOut = s.consoleOut := rfl
@[simp] theorem State.refuse_attn (c : Command) (r : Result) : (s.refuse c r).attn = s.attn := rfl
@[simp] theorem State.refuse_port (c : Command) (r : Result) : (s.refuse c r).port = { s.port with held := ⟨c.code, r, []⟩ } := rfl

@[simp] theorem State.refuseFrame_pending (code : Byte) (r : Result) : (s.refuseFrame code r).pending = s.pending := rfl
@[simp] theorem State.refuseFrame_resetHeld (code : Byte) (r : Result) : (s.refuseFrame code r).resetHeld = s.resetHeld := rfl
@[simp] theorem State.refuseFrame_now (code : Byte) (r : Result) : (s.refuseFrame code r).now = s.now := rfl
@[simp] theorem State.refuseFrame_ref (code : Byte) (r : Result) : (s.refuseFrame code r).ref = s.ref := rfl
@[simp] theorem State.refuseFrame_rx (code : Byte) (r : Result) : (s.refuseFrame code r).rx = s.rx := rfl
@[simp] theorem State.refuseFrame_console (code : Byte) (r : Result) : (s.refuseFrame code r).console = s.console := rfl
@[simp] theorem State.refuseFrame_table (code : Byte) (r : Result) : (s.refuseFrame code r).table = s.table := rfl
@[simp] theorem State.refuseFrame_gain (code : Byte) (r : Result) : (s.refuseFrame code r).gain = s.gain := rfl
@[simp] theorem State.refuseFrame_tx (code : Byte) (r : Result) : (s.refuseFrame code r).tx = s.tx := rfl
@[simp] theorem State.refuseFrame_consoleOut (code : Byte) (r : Result) : (s.refuseFrame code r).consoleOut = s.consoleOut := rfl
@[simp] theorem State.refuseFrame_attn (code : Byte) (r : Result) : (s.refuseFrame code r).attn = s.attn := rfl
@[simp] theorem State.refuseFrame_port (code : Byte) (r : Result) : (s.refuseFrame code r).port = { s.port with held := ⟨code, r, []⟩ } := rfl

@[simp] theorem State.closePort_pending : (s.closePort).pending = s.pending := rfl
@[simp] theorem State.closePort_resetHeld : (s.closePort).resetHeld = s.resetHeld := rfl
@[simp] theorem State.closePort_now : (s.closePort).now = s.now := rfl
@[simp] theorem State.closePort_ref : (s.closePort).ref = s.ref := rfl
@[simp] theorem State.closePort_rx : (s.closePort).rx = s.rx := rfl
@[simp] theorem State.closePort_console : (s.closePort).console = s.console := rfl
@[simp] theorem State.closePort_table : (s.closePort).table = s.table := rfl
@[simp] theorem State.closePort_gain : (s.closePort).gain = s.gain := rfl
@[simp] theorem State.closePort_tx : (s.closePort).tx = s.tx := rfl
@[simp] theorem State.closePort_consoleOut : (s.closePort).consoleOut = s.consoleOut := rfl
@[simp] theorem State.closePort_attn : (s.closePort).attn = s.attn := rfl
@[simp] theorem State.closePort_port : (s.closePort).port = s.port.close := rfl

@[simp] theorem State.reportIf_pending (b : Bool) (o : Occurrence) : (s.reportIf b o).pending = s.pending := rfl
@[simp] theorem State.reportIf_resetHeld (b : Bool) (o : Occurrence) : (s.reportIf b o).resetHeld = s.resetHeld := rfl
@[simp] theorem State.reportIf_now (b : Bool) (o : Occurrence) : (s.reportIf b o).now = s.now := rfl
@[simp] theorem State.reportIf_ref (b : Bool) (o : Occurrence) : (s.reportIf b o).ref = s.ref := rfl
@[simp] theorem State.reportIf_rx (b : Bool) (o : Occurrence) : (s.reportIf b o).rx = s.rx := rfl
@[simp] theorem State.reportIf_console (b : Bool) (o : Occurrence) : (s.reportIf b o).console = s.console := rfl
@[simp] theorem State.reportIf_table (b : Bool) (o : Occurrence) : (s.reportIf b o).table = s.table := rfl
@[simp] theorem State.reportIf_gain (b : Bool) (o : Occurrence) : (s.reportIf b o).gain = s.gain := rfl
@[simp] theorem State.reportIf_tx (b : Bool) (o : Occurrence) : (s.reportIf b o).tx = s.tx := rfl
@[simp] theorem State.reportIf_consoleOut (b : Bool) (o : Occurrence) : (s.reportIf b o).consoleOut = s.consoleOut := rfl
@[simp] theorem State.reportIf_attn (b : Bool) (o : Occurrence) : (s.reportIf b o).attn = s.attn.reportIf b o := rfl
@[simp] theorem State.reportIf_port (b : Bool) (o : Occurrence) : (s.reportIf b o).port = s.port := rfl

@[simp] theorem State.mapTracks_pending (f : Track → Track) : (s.mapTracks f).pending = s.pending := rfl
@[simp] theorem State.mapTracks_resetHeld (f : Track → Track) : (s.mapTracks f).resetHeld = s.resetHeld := rfl
@[simp] theorem State.mapTracks_now (f : Track → Track) : (s.mapTracks f).now = s.now := rfl
@[simp] theorem State.mapTracks_ref (f : Track → Track) : (s.mapTracks f).ref = s.ref := rfl
@[simp] theorem State.mapTracks_rx (f : Track → Track) : (s.mapTracks f).rx = s.rx := rfl
@[simp] theorem State.mapTracks_console (f : Track → Track) : (s.mapTracks f).console = s.console := rfl
@[simp] theorem State.mapTracks_table (f : Track → Track) : (s.mapTracks f).table = { s.table with slots := s.table.slots.map (Option.map f) } := rfl
@[simp] theorem State.mapTracks_gain (f : Track → Track) : (s.mapTracks f).gain = s.gain := rfl
@[simp] theorem State.mapTracks_tx (f : Track → Track) : (s.mapTracks f).tx = s.tx := rfl
@[simp] theorem State.mapTracks_consoleOut (f : Track → Track) : (s.mapTracks f).consoleOut = s.consoleOut := rfl
@[simp] theorem State.mapTracks_attn (f : Track → Track) : (s.mapTracks f).attn = s.attn := rfl
@[simp] theorem State.mapTracks_port (f : Track → Track) : (s.mapTracks f).port = s.port := rfl

@[simp] theorem State.emitInstant_pending : s.emitInstant.pending = s.pending := rfl
@[simp] theorem State.emitInstant_resetHeld : s.emitInstant.resetHeld = s.resetHeld := rfl
@[simp] theorem State.emitInstant_now : s.emitInstant.now = max s.now (s.ref.instantDue s.ref.emitted) := rfl
@[simp] theorem State.emitInstant_ref : s.emitInstant.ref = { s.ref with emitted := s.ref.emitted + 1, owed := true } := rfl
@[simp] theorem State.emitInstant_rx : s.emitInstant.rx = s.rx := rfl
@[simp] theorem State.emitInstant_console : s.emitInstant.console = s.console := rfl
@[simp] theorem State.emitInstant_table : s.emitInstant.table = s.table := rfl
@[simp] theorem State.emitInstant_gain : s.emitInstant.gain = s.gain := rfl
@[simp] theorem State.emitInstant_tx : s.emitInstant.tx = s.tx := rfl
@[simp] theorem State.emitInstant_consoleOut : s.emitInstant.consoleOut = s.consoleOut := rfl
@[simp] theorem State.emitInstant_attn : s.emitInstant.attn = s.attn := rfl
@[simp] theorem State.emitInstant_port : s.emitInstant.port = s.port := rfl

/-! ### The reference unit -/

variable (r : RefUnit)

@[simp] theorem RefUnit.holdAt_source (period : Nat) : (r.holdAt period).source = r.source := rfl
@[simp] theorem RefUnit.holdAt_state (period : Nat) : (r.holdAt period).state = r.state := rfl
@[simp] theorem RefUnit.holdAt_format (period : Nat) : (r.holdAt period).format = r.format := rfl
@[simp] theorem RefUnit.holdAt_phase (period : Nat) : (r.holdAt period).phase = r.phase := rfl
@[simp] theorem RefUnit.holdAt_align (period : Nat) : (r.holdAt period).align = r.align := rfl
@[simp] theorem RefUnit.holdAt_freeRun (period : Nat) : (r.holdAt period).freeRun = r.freeRun := rfl
@[simp] theorem RefUnit.holdAt_holdover (period : Nat) : (r.holdAt period).holdover = period := rfl
@[simp] theorem RefUnit.holdAt_candidate (period : Nat) : (r.holdAt period).candidate = r.candidate := rfl
@[simp] theorem RefUnit.holdAt_count (period : Nat) : (r.holdAt period).count = r.count := rfl
@[simp] theorem RefUnit.holdAt_present (period : Nat) : (r.holdAt period).present = r.present := rfl
@[simp] theorem RefUnit.holdAt_lastLine (period : Nat) : (r.holdAt period).lastLine = r.lastLine := rfl
@[simp] theorem RefUnit.holdAt_counted (period : Nat) : (r.holdAt period).counted = r.counted := rfl
@[simp] theorem RefUnit.holdAt_lockedPeriod (period : Nat) : (r.holdAt period).lockedPeriod = r.lockedPeriod := rfl
@[simp] theorem RefUnit.holdAt_frameStart (period : Nat) : (r.holdAt period).frameStart = r.frameStart := rfl
@[simp] theorem RefUnit.holdAt_frameLength (period : Nat) : (r.holdAt period).frameLength = period := rfl
@[simp] theorem RefUnit.holdAt_pace (period : Nat) : (r.holdAt period).pace = period := rfl
@[simp] theorem RefUnit.holdAt_emitted (period : Nat) : (r.holdAt period).emitted = r.emitted := rfl
@[simp] theorem RefUnit.holdAt_owed (period : Nat) : (r.holdAt period).owed = r.owed := rfl

/-! ### Lane transmitters -/

variable (tx : LaneTx)

@[simp] theorem LaneTx.reached_mode (arriving : Nat) (flat : Bool) : (tx.reached arriving flat).mode = tx.mode := rfl
@[simp] theorem LaneTx.reached_format (arriving : Nat) (flat : Bool) : (tx.reached arriving flat).format = tx.format := rfl
@[simp] theorem LaneTx.reached_phase (arriving : Nat) (flat : Bool) : (tx.reached arriving flat).phase = tx.phase := rfl
@[simp] theorem LaneTx.reached_plan (arriving : Nat) (flat : Bool) : (tx.reached arriving flat).plan = tx.plan := rfl
@[simp] theorem LaneTx.reached_lines (arriving : Nat) (flat : Bool) : (tx.reached arriving flat).lines = tx.lines + 1 := rfl
@[simp] theorem LaneTx.reached_groups (arriving : Nat) (flat : Bool) : (tx.reached arriving flat).groups = tx.groups := rfl
@[simp] theorem LaneTx.reached_staged (arriving : Nat) (flat : Bool) : (tx.reached arriving flat).staged = tx.staged := rfl
@[simp] theorem LaneTx.reached_handed (arriving : Nat) (flat : Bool) : (tx.reached arriving flat).handed = tx.handed := rfl
@[simp] theorem LaneTx.reached_passing (arriving : Nat) (flat : Bool) : (tx.reached arriving flat).passing = tx.passing := rfl
@[simp] theorem LaneTx.reached_store (arriving : Nat) (flat : Bool) : (tx.reached arriving flat).store = tx.store.filter fun p => p.line ≠ arriving := rfl
@[simp] theorem LaneTx.reached_line (arriving : Nat) (flat : Bool) : (tx.reached arriving flat).line = some (tx.openLine (tx.lines + 1) arriving) := rfl
@[simp] theorem LaneTx.reached_blanking (arriving : Nat) (flat : Bool) : (tx.reached arriving flat).blanking = tx.blanking := rfl
@[simp] theorem LaneTx.reached_flat (arriving : Nat) (flat : Bool) : (tx.reached arriving flat).flat = flat := rfl

@[simp] theorem LaneTx.withLine_mode (line : OpenLine) : (tx.withLine line).mode = tx.mode := by unfold LaneTx.withLine; split <;> rfl
@[simp] theorem LaneTx.withLine_format (line : OpenLine) : (tx.withLine line).format = tx.format := by unfold LaneTx.withLine; split <;> rfl
@[simp] theorem LaneTx.withLine_phase (line : OpenLine) : (tx.withLine line).phase = tx.phase := by unfold LaneTx.withLine; split <;> rfl
@[simp] theorem LaneTx.withLine_plan (line : OpenLine) : (tx.withLine line).plan = tx.plan := by unfold LaneTx.withLine; split <;> rfl
@[simp] theorem LaneTx.withLine_lines (line : OpenLine) : (tx.withLine line).lines = tx.lines := by unfold LaneTx.withLine; split <;> rfl
@[simp] theorem LaneTx.withLine_groups (line : OpenLine) : (tx.withLine line).groups = tx.groups := by unfold LaneTx.withLine; split <;> rfl
@[simp] theorem LaneTx.withLine_staged (line : OpenLine) : (tx.withLine line).staged = tx.staged := by unfold LaneTx.withLine; split <;> rfl
@[simp] theorem LaneTx.withLine_handed (line : OpenLine) : (tx.withLine line).handed = tx.handed := by unfold LaneTx.withLine; split <;> rfl
@[simp] theorem LaneTx.withLine_passing (line : OpenLine) : (tx.withLine line).passing = tx.passing := by unfold LaneTx.withLine; split <;> rfl
@[simp] theorem LaneTx.withLine_store (line : OpenLine) : (tx.withLine line).store = tx.store := by unfold LaneTx.withLine; split <;> rfl
@[simp] theorem LaneTx.withLine_flat (line : OpenLine) : (tx.withLine line).flat = tx.flat := by unfold LaneTx.withLine; split <;> rfl

/-- A line with a draw left stands open, its lane's output as before. -/
theorem LaneTx.withLine_open {line : OpenLine} (h : line.packets.all (fun p => p.left.isEmpty) = false) :
    tx.withLine line = { tx with line := some line } := by simp [LaneTx.withLine, h]

/-- A line with no draw left is whole and fills its blanking (R142). -/
theorem LaneTx.withLine_whole {line : OpenLine} (h : line.packets.all (fun p => p.left.isEmpty) = true) :
    tx.withLine line = { tx with line := none, blanking := line.blanking tx.phase } := by simp [LaneTx.withLine, h]

/-! ### The port -/

variable (p : Port)

@[simp] theorem Port.close_held : p.close.held = p.held := rfl
@[simp] theorem Port.close_opened : p.close.opened = false := rfl
@[simp] theorem Port.close_outgoing : p.close.outgoing = [] := rfl
@[simp] theorem Port.close_shifted : p.close.shifted = 0 := rfl
@[simp] theorem Port.close_frame : p.close.frame = [] := rfl
@[simp] theorem Port.close_bits : p.close.bits = [] := rfl
@[simp] theorem Port.close_dataOut : p.close.dataOut = none := rfl

@[simp] theorem Port.open_held : p.open.held = p.held := rfl
@[simp] theorem Port.open_opened : p.open.opened = true := rfl
@[simp] theorem Port.open_outgoing : p.open.outgoing = p.held.bytes := rfl
@[simp] theorem Port.open_shifted : p.open.shifted = 0 := rfl
@[simp] theorem Port.open_frame : p.open.frame = [] := rfl
@[simp] theorem Port.open_bits : p.open.bits = [] := rfl
@[simp] theorem Port.open_dataOut : p.open.dataOut = none := rfl

@[simp] theorem Port.shift_held (b : Byte) : (p.shift b).held = p.held := rfl
@[simp] theorem Port.shift_opened (b : Byte) : (p.shift b).opened = p.opened := rfl
@[simp] theorem Port.shift_outgoing (b : Byte) : (p.shift b).outgoing = p.outgoing := rfl
@[simp] theorem Port.shift_shifted (b : Byte) : (p.shift b).shifted = min (p.shifted + 1) p.outgoing.length := rfl
@[simp] theorem Port.shift_frame (b : Byte) : (p.shift b).frame = p.receive b := rfl
@[simp] theorem Port.shift_bits (b : Byte) : (p.shift b).bits = p.bits := rfl
@[simp] theorem Port.shift_dataOut (b : Byte) : (p.shift b).dataOut = some (p.outgoing.getD p.shifted 0) := rfl

/-- The byte a byte's eight bits make. -/
theorem byteOfBits_bitsOf (b : Byte) : byteOfBits (bitsOf b) = b := by
  revert b
  decide +kernel

/-- A bit before the eighth stands; nothing else moves. -/
theorem Port.clock_early {p : Port} (h : p.bits.length ≠ 7) (bit : Bool) :
    p.clock bit = { p with bits := p.bits ++ [bit] } := by simp [Port.clock, h]

/-- The eighth bit moves a byte each way. -/
theorem Port.clock_last {p : Port} (h : p.bits.length = 7) (bit : Bool) :
    p.clock bit = { p.shift (byteOfBits (p.bits ++ [bit])) with bits := [] } := by simp [Port.clock, h]

/-! ### The table -/

@[simp] theorem Table.put_map (tab : Table) (i : Fin 256) (t : Option Track) : (tab.put i t).map = tab.map := rfl
@[simp] theorem Table.put_slots (tab : Table) (i : Fin 256) (t : Option Track) :
    (tab.put i t).slots = tab.slots.set i t := rfl
@[simp] theorem Table.put_occupancy (tab : Table) (i : Fin 256) (t : Option Track) :
    (tab.put i t).occupancy = tab.occupancy := rfl
@[simp] theorem Table.put_staged (tab : Table) (i : Fin 256) (t : Option Track) : (tab.put i t).staged = tab.staged := rfl
@[simp] theorem Table.claim_slots (tab : Table) (ds : List Dest) (n : Nat) : (tab.claim ds n).slots = tab.slots := rfl
@[simp] theorem Table.claim_occupancy (tab : Table) (ds : List Dest) (n : Nat) :
    (tab.claim ds n).occupancy = tab.occupancy := rfl
@[simp] theorem Table.claim_staged (tab : Table) (ds : List Dest) (n : Nat) : (tab.claim ds n).staged = tab.staged := rfl
@[simp] theorem Table.release_slots (tab : Table) (ds : List Dest) : (tab.release ds).slots = tab.slots := rfl
@[simp] theorem Table.release_occupancy (tab : Table) (ds : List Dest) : (tab.release ds).occupancy = tab.occupancy := rfl
@[simp] theorem Table.release_staged (tab : Table) (ds : List Dest) : (tab.release ds).staged = tab.staged := rfl

/-! ### Running and stepping -/

/-- Every event goes on: with the reset line released, to the event's own state. -/
theorem State.running_released {s : State} (h : s.resetHeld = false) (f : State → State) :
    s.running f = .next (f s) := by simp [State.running, h]

/-- While the reset line is asserted the state stands. -/
theorem State.running_held {s : State} (h : s.resetHeld = true) (f : State → State) :
    s.running f = .next s := by simp [State.running, h]

/-- Reporting nothing changes nothing. -/
@[simp] theorem State.reportIf_false (o : Occurrence) : s.reportIf false o = s := rfl

/-- A step runs the command at the front of the queue. -/
theorem step_cons {s : State} {c : Instr} {rest : List Instr} (h : s.pending = c :: rest) :
    step s = exec c { s with pending := rest } := by simp [step, h]

end Sys2Proof.Machine
end

