-- ==== Sys2Proof/Laws/Frames.lean ====
section
/-! SUPPORT. The frame of each shared operation: which blocks it may change. -/

namespace Sys2Proof.Machine

/-- The attention unit's settings stand; its requests may be set but are not cleared. -/
def Attention.Follows (a b : Attention) : Prop :=
  b.selectorA = a.selectorA ∧ b.selectorB = a.selectorB ∧ b.threshold = a.threshold ∧
  (a.requestA = true → b.requestA = true) ∧ (a.requestB = true → b.requestB = true)

theorem Attention.Follows.refl (a : Attention) : a.Follows a := ⟨rfl, rfl, rfl, id, id⟩

theorem Attention.Follows.trans {a b c : Attention} (h : a.Follows b) (k : b.Follows c) : a.Follows c :=
  ⟨k.1.trans h.1, k.2.1.trans h.2.1, k.2.2.1.trans h.2.2.1, fun x => k.2.2.2.1 (h.2.2.2.1 x),
    fun x => k.2.2.2.2 (h.2.2.2.2 x)⟩

theorem Attention.follows_reportIf (a : Attention) (b : Bool) (o : Occurrence) : a.Follows (a.reportIf b o) := by
  unfold Attention.reportIf Attention.report
  split
  · split
    · exact ⟨rfl, rfl, rfl, fun _ => rfl, id⟩
    · exact .refl a
  · exact .refl a

theorem Attention.follows_reportOccupancy (a : Attention) (m n : Nat) : a.Follows (a.reportOccupancy m n) := by
  unfold Attention.reportOccupancy
  split
  · exact ⟨rfl, rfl, rfl, id, fun _ => rfl⟩
  · exact .refl a

/-- Only the table has changed, and requests have been set. -/
def State.TableOnly (s t : State) : Prop :=
  t = { s with table := t.table, attn := t.attn } ∧ s.attn.Follows t.attn

/-- The blocks that only commands and the port change stand: the queue, the reset line, the gain stage, the port and the
attention unit's settings. -/
def State.EventOnly (s t : State) : Prop :=
  t.pending = s.pending ∧ t.resetHeld = s.resetHeld ∧ t.gain = s.gain ∧ t.port = s.port ∧ s.attn.Follows t.attn

theorem State.TableOnly.refl (s : State) : s.TableOnly s := ⟨rfl, .refl _⟩

theorem State.TableOnly.trans {s t u : State} (h : s.TableOnly t) (k : t.TableOnly u) : s.TableOnly u :=
  ⟨by rw [k.1, h.1], h.2.trans k.2⟩

theorem State.EventOnly.refl (s : State) : s.EventOnly s := ⟨rfl, rfl, rfl, rfl, .refl _⟩

theorem State.EventOnly.trans {s t u : State} (h : s.EventOnly t) (k : t.EventOnly u) : s.EventOnly u :=
  ⟨k.1.trans h.1, k.2.1.trans h.2.1, k.2.2.1.trans h.2.2.1, k.2.2.2.1.trans h.2.2.2.1, h.2.2.2.2.trans k.2.2.2.2⟩

theorem State.TableOnly.eventOnly {s t : State} (h : s.TableOnly t) : s.EventOnly t := by
  have e := h.1
  exact ⟨by rw [e], by rw [e], by rw [e], by rw [e], h.2⟩

theorem State.TableOnly.rx {s t : State} (h : s.TableOnly t) : t.rx = s.rx := by rw [h.1]
theorem State.TableOnly.tx {s t : State} (h : s.TableOnly t) : t.tx = s.tx := by rw [h.1]
theorem State.TableOnly.ref {s t : State} (h : s.TableOnly t) : t.ref = s.ref := by rw [h.1]
theorem State.TableOnly.console {s t : State} (h : s.TableOnly t) : t.console = s.console := by rw [h.1]
theorem State.TableOnly.consoleOut {s t : State} (h : s.TableOnly t) : t.consoleOut = s.consoleOut := by rw [h.1]
theorem State.TableOnly.now {s t : State} (h : s.TableOnly t) : t.now = s.now := by rw [h.1]
theorem State.TableOnly.gain {s t : State} (h : s.TableOnly t) : t.gain = s.gain := by rw [h.1]
theorem State.TableOnly.port {s t : State} (h : s.TableOnly t) : t.port = s.port := by rw [h.1]
theorem State.TableOnly.pending {s t : State} (h : s.TableOnly t) : t.pending = s.pending := by rw [h.1]
theorem State.TableOnly.resetHeld {s t : State} (h : s.TableOnly t) : t.resetHeld = s.resetHeld := by rw [h.1]

/-- A table in place of the part's. -/
theorem State.tableOnly_with (s : State) (tab : Table) : s.TableOnly { s with table := tab } := ⟨rfl, .refl _⟩

theorem State.tableOnly_reportIf (s : State) (b : Bool) (o : Occurrence) : s.TableOnly (s.reportIf b o) :=
  ⟨rfl, Attention.follows_reportIf ..⟩

/-- The reports of an event of the table touch only the attention unit. -/
theorem State.reportTable_eq (before s : State) :
    State.reportTable before s = { s with attn := (State.reportTable before s).attn } := rfl

theorem State.follows_reportTable (before s : State) : s.attn.Follows (State.reportTable before s).attn :=
  ((Attention.follows_reportIf ..).trans (Attention.follows_reportIf ..)).trans (Attention.follows_reportOccupancy ..)

@[simp] theorem State.reportTable_table (before s : State) : (State.reportTable before s).table = s.table := rfl

theorem State.tableOnly_reportTable (before s : State) : s.TableOnly (State.reportTable before s) :=
  ⟨rfl, State.follows_reportTable ..⟩

/-- Ending an event of the table changes the two counts and the requests. -/
theorem State.tableOnly_settle (before s : State) : s.TableOnly (State.settle before s) :=
  (s.tableOnly_with _).trans (State.tableOnly_reportTable ..)

@[simp] theorem State.settle_slots (before s : State) : (State.settle before s).table.slots = s.table.slots := rfl
@[simp] theorem State.settle_map (before s : State) : (State.settle before s).table.map = s.table.map := rfl
@[simp] theorem State.settle_occupancy (before s : State) : (State.settle before s).table.occupancy =
    before.table.occupancy + s.table.records - before.table.records := rfl
@[simp] theorem State.settle_staged (before s : State) : (State.settle before s).table.staged =
    before.table.staged + s.stagedItems - before.stagedItems := rfl

theorem State.tableOnly_mapTracks (s : State) (f : Track → Track) : s.TableOnly (s.mapTracks f) := s.tableOnly_with _

theorem State.tableOnly_sourcesLost (s : State) (gone : Source → Bool) : s.TableOnly (s.sourcesLost gone) :=
  (s.tableOnly_mapTracks _).trans (State.tableOnly_settle ..)

theorem State.tableOnly_sourcesBack (s : State) (back : Source → Bool) : s.TableOnly (s.sourcesBack back) :=
  s.tableOnly_mapTracks _

theorem State.tableOnly_arrival (s : State) (into : Source → Bool) (depth : Nat) : s.TableOnly (s.arrival into depth) :=
  (s.tableOnly_mapTracks _).trans (State.tableOnly_reportIf ..)

theorem State.tableOnly_landTable (s : State) (p : Dest → Bool) : s.TableOnly (s.landTable p) := s.tableOnly_with _

theorem State.tableOnly_consoleSwitchPoint (s : State) : s.TableOnly s.consoleSwitchPoint :=
  (s.tableOnly_landTable _).trans (State.tableOnly_settle ..)

/-- A draw touches the drawn record and the requests. -/
theorem State.tableOnly_draw (s : State) (d : Dest) (w : WordLength) : s.TableOnly (s.draw d w).2 := by
  unfold State.draw
  split
  · exact .refl s
  · exact (s.tableOnly_with _).trans (State.tableOnly_reportIf ..)

theorem State.tableOnly_draws (s : State) (w : WordLength) (ds : List Dest) : s.TableOnly (s.draws w ds).2 := by
  induction ds generalizing s with
  | nil => exact .refl s
  | cons d ds ih => exact (s.tableOnly_draw d w).trans (ih _)

theorem State.length_draws (s : State) (w : WordLength) (ds : List Dest) : (s.draws w ds).1.length = ds.length := by
  induction ds generalizing s with
  | nil => rfl
  | cons d ds ih => simp [State.draws, ih]

theorem State.tableOnly_buildGroups (s : State) (l : Fin 8) (k : Nat) (gs : List (Fin 4)) :
    s.TableOnly (s.buildGroups l k gs).2 := by
  induction gs generalizing s with
  | nil => exact .refl s
  | cons g gs ih => exact (s.tableOnly_draws ..).trans (ih _)

theorem State.tableOnly_drawPackets (s : State) (l : Fin 8) (ps : List OpenPacket) :
    s.TableOnly (s.drawPackets l ps).2 := by
  induction ps generalizing s with
  | nil => exact .refl s
  | cons p ps ih => exact (s.tableOnly_draws ..).trans (ih _)

theorem State.tableOnly_drawOne (s : State) (l : Fin 8) (g c : Fin 4) (ps : List OpenPacket) :
    s.TableOnly (s.drawOne l g c ps).2 := by
  induction ps with
  | nil => exact .refl s
  | cons p ps ih =>
    unfold State.drawOne
    split
    · split
      · exact s.tableOnly_draw _ _
      · exact .refl s
    · exact ih

theorem State.tableOnly_drawListed (s : State) (l : Fin 8) (cs : List (Fin 4 × Fin 4)) (ps : List OpenPacket) :
    s.TableOnly (s.drawListed l cs ps).2 := by
  induction cs generalizing s ps with
  | nil => exact .refl s
  | cons c cs ih => exact (s.tableOnly_drawOne l c.1 c.2 ps).trans (ih _ _)

/-! ### Events that change more than the table -/

theorem State.eventOnly_setTx (s : State) (l : Fin 8) (x : LaneTx) : s.EventOnly (s.setTx l x) := .refl s
theorem State.eventOnly_setRx (s : State) (l : Fin 8) (x : LaneRx) : s.EventOnly (s.setRx l x) := .refl s
theorem State.eventOnly_withRef (s : State) (r : RefUnit) : s.EventOnly (s.withRef r) := .refl s

/-- A line that goes on changes its lane's line and blanking, the table and the requests; a line that is not open,
nothing. -/
theorem State.goOnLine_frame (s : State) (l : Fin 8) (draws : Option (List (Fin 4 × Fin 4))) :
    ∃ x, (s.setTx l x).TableOnly (s.goOnLine l draws) ∧
      x = { s.tx.get l with line := x.line, blanking := x.blanking } := by
  unfold State.goOnLine
  split
  · refine ⟨s.tx.get l, ?_, rfl⟩
    have same : s.setTx l (s.tx.get l) = s := by unfold State.setTx; rw [Bank.set_get]
    rw [same]
    exact .refl s
  · next line _ =>
    dsimp only
    have frame : ∀ drawn : List OpenPacket × State, s.TableOnly drawn.2 →
        ∃ x, (s.setTx l x).TableOnly (drawn.2.setTx l ((s.tx.get l).withLine { line with packets := drawn.1 })) ∧
          x = { s.tx.get l with line := x.line, blanking := x.blanking } := by
      rintro ⟨ps, u⟩ h
      refine ⟨(s.tx.get l).withLine { line with packets := ps }, ⟨?_, h.2⟩, ?_⟩
      · have e : u = { s with table := u.table, attn := u.attn } := h.1
        dsimp only [State.setTx]
        rw [e]
      · unfold LaneTx.withLine
        split <;> rfl
    split
    · exact frame _ (s.tableOnly_drawPackets l _)
    · exact frame _ (s.tableOnly_drawListed l _ _)

theorem State.goOnLine_closed {s : State} {l : Fin 8} (h : (s.tx.get l).line = none)
    (draws : Option (List (Fin 4 × Fin 4))) : s.goOnLine l draws = s := by
  unfold State.goOnLine
  rw [h]

theorem State.eventOnly_goOnLine (s : State) (l : Fin 8) (draws : Option (List (Fin 4 × Fin 4))) :
    s.EventOnly (s.goOnLine l draws) := by
  obtain ⟨x, h, -⟩ := s.goOnLine_frame l draws
  exact (s.eventOnly_setTx l x).trans h.eventOnly

/-- A frame start of one lane, the line of the frame it ends drawn: its transmitter and the table. -/
theorem State.beginOutgoingFrame_frame (s : State) (l : Fin 8) (m : TxMode) (f : Format) (p : Nat) (b : Bool)
    (st : List TakenPacket) : ∃ x, ((s.finishLine l).setTx l x).TableOnly (s.beginOutgoingFrame l m f p b st) ∧
      x = { (s.finishLine l).tx.get l with
        mode := m, format := f, phase := p, plan := Plan.of f p, lines := 0
        groups := ((s.finishLine l).tx.get l).staged.getD ((s.finishLine l).tx.get l).groups, staged := none
        passing := b, store := st } :=
  ⟨_, (State.tableOnly_landTable ..).trans (State.tableOnly_settle ..), rfl⟩

theorem State.eventOnly_beginOutgoingFrame (s : State) (l : Fin 8) (m : TxMode) (f : Format) (p : Nat) (b : Bool)
    (st : List TakenPacket) : s.EventOnly (s.beginOutgoingFrame l m f p b st) := by
  obtain ⟨x, h, -⟩ := s.beginOutgoingFrame_frame l m f p b st
  exact (s.eventOnly_goOnLine l none).trans ((State.eventOnly_setTx _ l x).trans h.eventOnly)

theorem State.eventOnly_handedFrameStart (s : State) (l : Fin 8) : s.EventOnly (s.handedFrameStart l) := by
  unfold State.handedFrameStart
  dsimp only
  split
  · exact .refl s
  · exact (s.eventOnly_setTx l _).trans (State.eventOnly_beginOutgoingFrame ..)

theorem State.eventOnly_laneAtReferenceFrame (s : State) (l : Fin 8) : s.EventOnly (s.laneAtReferenceFrame l) := by
  unfold State.laneAtReferenceFrame
  split
  · exact State.eventOnly_beginOutgoingFrame ..
  · exact .refl s

theorem State.eventOnly_foldl {α : Type} (f : State → α → State) (h : ∀ (s : State) a, s.EventOnly (f s a)) (xs : List α)
    (s : State) : s.EventOnly (xs.foldl f s) := by
  induction xs generalizing s with
  | nil => exact .refl s
  | cons a xs ih => exact (h s a).trans (ih _)

/-- An instant's work: the table, the requests and the console frame sent. -/
theorem State.instantWork_frame (s : State) (e : BitVec 64) :
    ({ s with consoleOut := (s.instantWork e).consoleOut }).TableOnly (s.instantWork e) := by
  have h := ((s.tableOnly_draws .w24 ((consoleChannels e true).map .console)).trans
    (State.tableOnly_mapTracks _ Track.stepRamp)).trans
    (State.tableOnly_draws _ .w24 ((consoleChannels e false).map .console))
  refine ⟨?_, h.2⟩
  have := h.1
  unfold State.instantWork
  dsimp only
  rw [this]

theorem State.eventOnly_instantWork (s : State) (e : BitVec 64) : s.EventOnly (s.instantWork e) :=
  let h := (s.instantWork_frame e).eventOnly
  ⟨h.1, h.2.1, h.2.2.1, h.2.2.2.1, h.2.2.2.2⟩

theorem State.eventOnly_emitInstant (s : State) : s.EventOnly s.emitInstant := .refl s

theorem State.eventOnly_workInstant (s : State) (e : BitVec 64) : s.EventOnly (s.workInstant e) :=
  State.eventOnly_instantWork ..

theorem State.eventOnly_completeInstant (s : State) : s.EventOnly s.completeInstant := by
  unfold State.completeInstant
  split
  · exact s.eventOnly_workInstant 0
  · exact .refl s

theorem State.eventOnly_beginReferenceFrame (s : State) : s.EventOnly s.beginReferenceFrame :=
  s.eventOnly_completeInstant.trans ((State.eventOnly_withRef ..).trans
    ((State.tableOnly_consoleSwitchPoint _).eventOnly.trans
      (State.eventOnly_foldl _ (fun (s : State) (l : Fin 8) => s.eventOnly_laneAtReferenceFrame l) _ _)))

theorem State.eventOnly_finishLines (s : State) : s.EventOnly s.finishLines :=
  State.eventOnly_foldl _ (fun (s : State) (l : Fin 8) => s.eventOnly_goOnLine l none) _ _

theorem State.eventOnly_reportReference (before s : State) : s.EventOnly (State.reportReference before s) :=
  (State.tableOnly_reportIf ..).eventOnly

@[simp] theorem State.reportReference_table (before s : State) :
    (State.reportReference before s).table = s.table := rfl

theorem State.eventOnly_reachLine (s : State) (l : Fin 8) (line : LineReach) (flat : Bool) :
    s.EventOnly (s.reachLine l line flat) := (s.eventOnly_setTx l _).trans (State.eventOnly_goOnLine ..)

theorem State.eventOnly_reachFallbackLine (s : State) (l : Fin 8) (line : LineReach) :
    s.EventOnly (s.reachFallbackLine l line) := by
  unfold State.reachFallbackLine
  dsimp only
  split
  · exact .refl s
  · split
    · exact State.eventOnly_reachLine ..
    · split
      · exact s.eventOnly_completeInstant.trans ((State.eventOnly_emitInstant _).trans (State.eventOnly_reachLine ..))
      · exact .refl s

theorem State.eventOnly_sourceSwitchLine (s : State) (c : Option (Option Format)) (p : Nat) :
    s.EventOnly (s.sourceSwitchLine c p) := by
  unfold State.sourceSwitchLine
  dsimp only
  split
  · exact .refl s
  · exact s.eventOnly_withRef _
  · split
    · exact (s.eventOnly_withRef _).trans (State.eventOnly_beginReferenceFrame _)
    · exact s.eventOnly_withRef _
  · exact (s.eventOnly_withRef _).trans (State.eventOnly_beginReferenceFrame _)
  · split
    · exact (s.eventOnly_withRef _).trans (State.eventOnly_beginReferenceFrame _)
    · exact (s.eventOnly_withRef _).trans (State.eventOnly_beginReferenceFrame _)

theorem State.eventOnly_sourceLoss (s : State) : s.EventOnly s.sourceLoss := by
  unfold State.sourceLoss
  dsimp only
  split
  · exact .refl s
  · exact s.eventOnly_withRef _
  · exact (s.eventOnly_withRef _).trans (State.eventOnly_beginReferenceFrame _)

theorem State.eventOnly_endIfPassed (s : State) : s.EventOnly s.endIfPassed := by
  unfold State.endIfPassed
  split
  · exact State.eventOnly_beginReferenceFrame _
  · exact .refl s

theorem State.eventOnly_selectSource (s : State) (src : RefSource) (p : Bool) : s.EventOnly (s.selectSource src p) := by
  unfold State.selectSource
  dsimp only
  split
  · exact s.eventOnly_withRef _
  · exact (s.eventOnly_withRef _).trans (State.eventOnly_endIfPassed _)
  · exact (s.eventOnly_withRef _).trans (State.eventOnly_endIfPassed _)

theorem State.eventOnly_setReference (s : State) (src : RefSource) (f : Format) : s.EventOnly (s.setReference src f) := by
  unfold State.setReference
  dsimp only
  refine State.EventOnly.trans ?_ (State.eventOnly_reportReference ..)
  split
  · exact s.eventOnly_withRef _
  · split
    · exact (s.eventOnly_withRef _).trans ((State.eventOnly_withRef ..).trans (State.eventOnly_endIfPassed _))
    · exact (s.eventOnly_withRef _).trans (State.eventOnly_selectSource ..)

/-! ### Receivers -/

theorem State.tableOnly_groupChange (before : LaneRx) (l : Fin 8) (s : State) (g : Fin 4) :
    s.TableOnly (State.groupChange before l s g) := by
  unfold State.groupChange
  split
  · exact s.tableOnly_sourcesLost _
  · exact s.tableOnly_sourcesBack _
  · exact .refl s

theorem State.tableOnly_foldl {α : Type} (f : State → α → State) (h : ∀ (s : State) a, s.TableOnly (f s a)) (xs : List α)
    (s : State) : s.TableOnly (xs.foldl f s) := by
  induction xs generalizing s with
  | nil => exact .refl s
  | cons a xs ih => exact (h s a).trans (ih _)

/-- A receiver's change: the receiver, and the table and the requests by the changes of its sources. -/
theorem State.tableOnly_changeRx (s : State) (l : Fin 8) (x : LaneRx) : (s.setRx l x).TableOnly (s.changeRx l x) :=
  (State.tableOnly_foldl _ (fun (s : State) (g : Fin 4) => State.tableOnly_groupChange _ l s g) _ _).trans (State.tableOnly_reportIf ..)

theorem State.eventOnly_changeRx (s : State) (l : Fin 8) (x : LaneRx) : s.EventOnly (s.changeRx l x) :=
  (s.eventOnly_setRx l x).trans (s.tableOnly_changeRx l x).eventOnly

theorem State.eventOnly_laneSwitchLine (s : State) (l : Fin 8) (n : Nat) : s.EventOnly (s.laneSwitchLine l n) := by
  unfold State.laneSwitchLine
  dsimp only
  have h := s.eventOnly_changeRx l ((s.rx.get l).atSwitchLine s.now (classify n (s.now - (s.rx.get l).lastLine)))
  split <;> split
  · exact h.trans ((State.eventOnly_setTx ..).trans (State.eventOnly_sourceSwitchLine ..))
  · exact h.trans (State.eventOnly_sourceSwitchLine ..)
  · exact h.trans (State.eventOnly_setTx ..)
  · exact h

theorem State.eventOnly_laneLoss (s : State) (l : Fin 8) : s.EventOnly (s.laneLoss l) := by
  unfold State.laneLoss
  dsimp only
  have h := (s.eventOnly_changeRx l (s.rx.get l).lost).trans (State.eventOnly_setTx _ l
    ((s.changeRx l (s.rx.get l).lost).tx.get l).feedLost)
  split
  · exact h.trans (State.eventOnly_sourceLoss _)
  · exact h

/-- An arrival of a lane group: the group's receiver, the table and the requests. -/
theorem State.laneArrival_frame (l : Fin 8) (g : Fin 4) (s : State) (set : Bank Sample 4) :
    ∃ x, (s.setRx l x).TableOnly (State.laneArrival l g s set) := by
  unfold State.laneArrival
  dsimp only
  split
  · exact ⟨_, State.tableOnly_arrival ..⟩
  · exact ⟨_, .refl _⟩

theorem State.eventOnly_takePacket (s : State) (l : Fin 8) (n : Nat) (p : Packet) : s.EventOnly (s.takePacket l n p) := by
  unfold State.takePacket
  dsimp only
  split
  · refine State.EventOnly.trans ?_ (State.eventOnly_setTx ..)
    refine (s.eventOnly_setRx l _).trans (State.eventOnly_foldl _ ?_ _ _)
    intro (s : State) set
    obtain ⟨x, h⟩ := State.laneArrival_frame l _ s set
    exact (s.eventOnly_setRx l x).trans h.eventOnly
  · exact s.eventOnly_setRx ..

/-- A console frame: the console receiver, the table and the requests. -/
theorem State.takeConsoleFrame_frame (s : State) (bytes : List Byte) :
    ∃ c, ({ s with console := c } : State).TableOnly (s.takeConsoleFrame bytes) := by
  unfold State.takeConsoleFrame
  dsimp only
  split
  · exact ⟨_, State.tableOnly_arrival ..⟩
  · split
    · exact ⟨_, State.tableOnly_sourcesLost ..⟩
    · exact ⟨_, .refl _⟩
  · split
    · exact ⟨_, State.tableOnly_sourcesBack ..⟩
    · exact ⟨_, .refl _⟩
  · exact ⟨_, .refl _⟩

theorem State.eventOnly_takeConsoleFrame (s : State) (bytes : List Byte) : s.EventOnly (s.takeConsoleFrame bytes) := by
  obtain ⟨c, h⟩ := s.takeConsoleFrame_frame bytes
  have := h.eventOnly
  exact ⟨this.1, this.2.1, this.2.2.1, this.2.2.2.1, this.2.2.2.2⟩

end Sys2Proof.Machine
end

