-- ==== Sys2Proof/Laws/Counts.lean ====
section
/-! SUPPORT. The two counts: what one record put into a slot, or one transmitter replaced, does to the number of records and of staged items, and so to a settled event. -/

namespace Sys2Proof.Machine

theorem sum_map_list_set {α : Type} (f : α → Nat) (xs : List α) (i : Nat) (h : i < xs.length) (x : α) :
    ((xs.set i x).map f).sum + f xs[i] = (xs.map f).sum + f x := by
  induction xs generalizing i with
  | nil => cases h
  | cons y ys ih =>
    cases i with
    | zero => simp only [List.set_cons_zero, List.map_cons, List.sum_cons, List.getElem_cons_zero]; omega
    | succ i =>
      have := ih i (Nat.lt_of_succ_lt_succ h)
      simp only [List.set_cons_succ, List.map_cons, List.sum_cons, List.getElem_cons_succ]; omega

theorem countP_eq_sum_toNat {α : Type} (p : α → Bool) (xs : List α) : xs.countP p = (xs.map fun x => (p x).toNat).sum := by
  induction xs with
  | nil => rfl
  | cons x xs ih => cases h : p x <;> simp [h, ih, Nat.add_comm]

/-- A sum over a bank, one thing replaced. -/
theorem Bank.sum_set (f : α → Nat) (b : Bank α n) (i : Fin n) (x : α) :
    ((b.set i x).cells.map f).sum + f (b.get i) = (b.cells.map f).sum + f x :=
  sum_map_list_set f b.cells i.1 (b.size.symm ▸ i.2) x

/-- The staged items of what a slot holds (R66). -/
def slotItems (o : Option Track) : Nat := o.elim 0 Track.stagedItems

/-- The number of records after one slot is replaced (R65). -/
theorem Table.records_put (tab : Table) (i : Fin 256) (o : Option Track) :
    (tab.put i o).records + (tab.slots.get i).isSome.toNat = tab.records + o.isSome.toNat := by
  simpa only [Table.records, Table.put, countP_eq_sum_toNat] using Bank.sum_set (fun o : Option Track => o.isSome.toNat) tab.slots i o

/-- The number of staged items after one slot is replaced (R66). -/
theorem State.stagedItems_put (s : State) (tab : Table) (i : Fin 256) (o : Option Track) (h : tab.slots = (s.table.put i o).slots) :
    ({ s with table := tab } : State).stagedItems + slotItems (s.table.slots.get i) = s.stagedItems + slotItems o := by
  have := Bank.sum_set slotItems s.table.slots i o
  simp only [State.stagedItems, State.stagedLanes, h, Table.put]
  unfold slotItems at *
  omega

/-- The number of staged items after one lane transmitter is replaced (R66, R149). -/
theorem State.stagedItems_setTx (s : State) (l : Fin 8) (x : LaneTx) :
    (s.setTx l x).stagedItems + (s.tx.get l).staged.isSome.toNat = s.stagedItems + x.staged.isSome.toNat := by
  have := Bank.sum_set (fun x : LaneTx => x.staged.isSome.toNat) s.tx l x
  simp only [State.stagedItems, State.stagedLanes, countP_eq_sum_toNat, State.setTx_table, State.setTx_tx]
  omega

/-- An event that replaces one record and the map, settled: counts change by the record's own, and the report follows. -/
theorem State.settle_put (s : State) (tab : Table) (i : Fin 256) (o : Option Track) (h : tab.slots = (s.table.put i o).slots) :
    State.settle s { s with table := tab } = State.reportTable s { s with table := { tab with
      occupancy := s.table.occupancy + o.isSome.toNat - (s.table.slots.get i).isSome.toNat
      staged := s.table.staged + slotItems o - slotItems (s.table.slots.get i) } } := by
  have records := Table.records_put s.table i o
  have items := State.stagedItems_put s tab i o h
  have same : tab.records = (s.table.put i o).records := by simp only [Table.records, h]
  have occupancy : s.table.occupancy + tab.records - s.table.records =
      s.table.occupancy + o.isSome.toNat - (s.table.slots.get i).isSome.toNat := by omega
  have staged : s.table.staged + ({ s with table := tab } : State).stagedItems - s.stagedItems =
      s.table.staged + slotItems o - slotItems (s.table.slots.get i) := by omega
  show State.reportTable s { s with table := { tab with occupancy := _, staged := _ } } = _
  rw [occupancy, staged]

end Sys2Proof.Machine
end

