-- ==== Sys2Proof/Laws/Tracks.lean ====
section
/-! SUPPORT. What events can do to a track record, said once: a law on records that each of these keeps is kept by every command. -/

namespace Sys2Proof.Machine

/-- A law on records that every way in which an event makes or changes a record keeps. -/
structure RecordLaw (P : Track → Prop) : Prop where
  /-- ADMIT creates a record. -/
  admitted : ∀ params r view R, readAdmit params = some r → P (r.track view R)
  /-- AMEND changes one. -/
  amended : ∀ t r view R, P t → t.retiring = false → t.guarded = false →
    (r.source.isSome → t.pendingSource = none) → P (t.amended r view R)
  /-- ATTACH names one of its own destinations. -/
  stayed : ∀ t d, P t → t.retiring = false → P (t.modifyEntry d Entry.stay)
  /-- ATTACH adds a destination. -/
  attached : ∀ t d, P t → t.retiring = false → t.entryFor d = none → t.entries.length < 8 →
    P { t with entries := t.entries ++ [Entry.new d t.pendingSource.isSome] }
  /-- DETACH removes a JOINING entry. -/
  dropped : ∀ t d e view R, P t → t.retiring = false → t.guarded = false → t.entryFor d = some e →
    e.phase.isJoining = true → P (Track.regain t ((t.dropEntry d).completeChange view) R)
  /-- DETACH makes an entry leave. -/
  left : ∀ t d e, P t → t.retiring = false → t.guarded = false → t.entryFor d = some e →
    e.phase.isJoining = false → P (t.modifyEntry d Entry.leave)
  /-- RETIRE. -/
  retired : ∀ t, P t → t.retiring = false → t.guarded = false → t.pendingSource = none → P t.retire
  /-- GUARD. -/
  guarded : ∀ t on, P t → t.retiring = false → P { t with guarded := on }
  /-- A switch point. -/
  landed : ∀ t u view R concerned, P t → t.atSwitchPoint view R concerned = some u → P u
  /-- An arrival. -/
  arrived : ∀ t into depth, P t → into .none = false → P (t.arrive into depth)
  /-- A draw. -/
  drawn : ∀ t d e window slipped clipped, P t → t.entryFor d = some e →
    P { (t.modifyEntry d (t.entryDrawn window)) with slipped := slipped, clipped := clipped }
  /-- A loss of sources. -/
  lost : ∀ t gone, P t → gone .none = false → P (t.lose gone)
  /-- A return of sources. -/
  back : ∀ t view R back, P t → back .none = false → P (t.comeBack view R back)
  /-- A ramp step. -/
  stepped : ∀ t, P t → P t.stepRamp

/-! ### Reading the table -/

theorem Table.lookup_eq_some {tab : Table} {label : Nat} {i : Fin 256} {t : Track}
    (h : tab.lookup label = some (i, t)) : tab.holds i t ∧ t.label = label ∧ i ∈ waysOf label := by
  simp only [Table.lookup, Option.bind_eq_some_iff, Option.map_eq_some_iff, Prod.mk.injEq] at h
  obtain ⟨j, hj, u, hu, rfl, rfl⟩ := h
  refine ⟨hu, ?_, List.mem_of_find?_eq_some hj⟩
  have := List.find?_some hj
  simpa [hu] using this

theorem Table.owning_eq_some {tab : Table} {d : Dest} {i : Fin 256} {t : Track} {e : Entry}
    (h : tab.owning d = some (i, t, e)) : tab.holds i t ∧ tab.ownerOf d = some t.label ∧ t.entryFor d = some e := by
  simp only [Table.owning, Option.bind_eq_some_iff, Option.map_eq_some_iff, Prod.exists, Prod.mk.injEq] at h
  obtain ⟨label, hl, j, u, hu, f, hf, rfl, rfl, rfl⟩ := h
  have := Table.lookup_eq_some hu
  exact ⟨this.1, by rw [hl, this.2.1], hf⟩

theorem Table.emptyWay_eq_some {tab : Table} {label : Nat} {i : Fin 256}
    (h : tab.emptyWay label = some i) : tab.slots.get i = none ∧ i ∈ waysOf label := by
  refine ⟨?_, List.mem_of_find?_eq_some h⟩
  simpa using List.find?_some h

/-! ### The law over a table -/

theorem Table.every_put {tab : Table} {P : Track → Prop} {i : Fin 256} {o : Option Track} (h : tab.Every P)
    (ho : ∀ t, o = some t → P t) : (tab.put i o).Every P := by
  intro j t hj
  simp only [Table.holds, Table.put_slots, Bank.get_set] at hj
  split at hj
  · exact ho t hj
  · exact h j t hj

theorem Table.every_of_slots {a b : Table} {P : Track → Prop} (e : b.slots = a.slots) (h : a.Every P) : b.Every P :=
  fun i t hi => h i t (by simpa only [Table.holds, e] using hi)

theorem Table.every_reset (P : Track → Prop) : Table.reset.Every P := by
  intro i t h
  simp [Table.holds, Table.reset] at h

theorem State.every_mapTracks {s : State} {P : Track → Prop} {f : Track → Track} (h : s.table.Every P)
    (hf : ∀ t, P t → P (f t)) : (s.mapTracks f).table.Every P := by
  intro i t hi
  simp only [Table.holds, State.mapTracks_table, Bank.get_map, Option.map_eq_some_iff] at hi
  obtain ⟨u, hu, rfl⟩ := hi
  exact hf u (h i u hu)

section
variable {P : Track → Prop} (L : RecordLaw P)
include L

theorem State.every_landTable {s : State} (p : Dest → Bool) (h : s.table.Every P) : (s.landTable p).table.Every P := by
  intro i t hi
  simp only [Table.holds, State.landTable, Table.release_slots, Bank.get_map, Option.bind_eq_some_iff] at hi
  obtain ⟨u, hu, ht⟩ := hi
  exact L.landed u t _ _ _ (h i u hu) ht

theorem State.every_sourcesLost {s : State} {gone : Source → Bool} (hn : gone .none = false) (h : s.table.Every P) :
    (s.sourcesLost gone).table.Every P :=
  Table.every_of_slots (State.settle_slots ..) (State.every_mapTracks h fun t ht => L.lost t _ ht hn)

theorem State.every_sourcesBack {s : State} {back : Source → Bool} (hn : back .none = false) (h : s.table.Every P) :
    (s.sourcesBack back).table.Every P :=
  State.every_mapTracks h fun t ht => L.back t _ _ _ ht hn

theorem State.every_arrival {s : State} {into : Source → Bool} (depth : Nat) (hn : into .none = false)
    (h : s.table.Every P) : (s.arrival into depth).table.Every P :=
  State.every_mapTracks h fun t ht => L.arrived t _ _ ht hn

theorem State.every_draw {s : State} (d : Dest) (w : WordLength) (h : s.table.Every P) :
    (s.draw d w).2.table.Every P := by
  unfold State.draw
  split
  · exact h
  · next i t e ho =>
    obtain ⟨hi, -, he⟩ := Table.owning_eq_some ho
    refine Table.every_put h fun u hu => ?_
    cases hu
    exact L.drawn t d e _ _ _ (h i t hi) he

theorem State.every_draws {s : State} (w : WordLength) (ds : List Dest) (h : s.table.Every P) :
    (s.draws w ds).2.table.Every P := by
  induction ds generalizing s with
  | nil => exact h
  | cons d ds ih => exact ih (State.every_draw L d w h)

theorem State.every_buildGroups {s : State} (l : Fin 8) (k : Nat) (gs : List (Fin 4)) (h : s.table.Every P) :
    (s.buildGroups l k gs).2.table.Every P := by
  induction gs generalizing s with
  | nil => exact h
  | cons g gs ih => exact ih (State.every_draws L _ _ h)

theorem State.every_drawPackets {s : State} (l : Fin 8) (ps : List OpenPacket) (h : s.table.Every P) :
    (s.drawPackets l ps).2.table.Every P := by
  induction ps generalizing s with
  | nil => exact h
  | cons p ps ih => exact ih (State.every_draws L _ _ h)

theorem State.every_drawOne {s : State} (l : Fin 8) (g c : Fin 4) (ps : List OpenPacket) (h : s.table.Every P) :
    (s.drawOne l g c ps).2.table.Every P := by
  induction ps with
  | nil => exact h
  | cons p ps ih =>
    unfold State.drawOne
    split
    · split
      · exact State.every_draw L _ _ h
      · exact h
    · exact ih

theorem State.every_drawListed {s : State} (l : Fin 8) (cs : List (Fin 4 × Fin 4)) (ps : List OpenPacket)
    (h : s.table.Every P) : (s.drawListed l cs ps).2.table.Every P := by
  induction cs generalizing s ps with
  | nil => exact h
  | cons c cs ih => exact ih _ (State.every_drawOne L l c.1 c.2 ps h)

theorem State.every_goOnLine {s : State} (l : Fin 8) (draws : Option (List (Fin 4 × Fin 4))) (h : s.table.Every P) :
    (s.goOnLine l draws).table.Every P := by
  unfold State.goOnLine
  split
  · exact h
  · dsimp only
    rw [State.setTx_table]
    split
    · exact State.every_drawPackets L l _ h
    · exact State.every_drawListed L l _ _ h

theorem State.every_reachLine {s : State} (l : Fin 8) (line : LineReach) (flat : Bool) (h : s.table.Every P) :
    (s.reachLine l line flat).table.Every P := State.every_goOnLine L l line.draws h

theorem State.every_beginOutgoingFrame {s : State} (l : Fin 8) (m : TxMode) (f : Format) (p : Nat) (b : Bool)
    (st : List TakenPacket) (h : s.table.Every P) : (s.beginOutgoingFrame l m f p b st).table.Every P := by
  unfold State.beginOutgoingFrame
  dsimp only
  refine Table.every_of_slots (State.settle_slots ..) (State.every_landTable L _ ?_)
  exact State.every_goOnLine L l none h

theorem State.every_handedFrameStart {s : State} (l : Fin 8) (h : s.table.Every P) :
    (s.handedFrameStart l).table.Every P := by
  unfold State.handedFrameStart
  dsimp only
  split
  · exact h
  · exact State.every_beginOutgoingFrame L _ _ _ _ _ _ h

theorem State.every_instantWork {s : State} (e : BitVec 64) (h : s.table.Every P) :
    (s.instantWork e).table.Every P := by
  unfold State.instantWork
  dsimp only
  exact State.every_draws L _ _ (State.every_mapTracks (State.every_draws L _ _ h) L.stepped)

theorem State.every_completeInstant {s : State} (h : s.table.Every P) : s.completeInstant.table.Every P := by
  unfold State.completeInstant State.workInstant
  split
  · exact State.every_instantWork L 0 h
  · exact h

omit L in
theorem State.every_foldl {α : Type} {f : State → α → State} (hf : ∀ (s : State) a, s.table.Every P → (f s a).table.Every P)
    (xs : List α) (s : State) (h : s.table.Every P) : (xs.foldl f s).table.Every P := by
  induction xs generalizing s with
  | nil => exact h
  | cons a xs ih => exact ih _ (hf s a h)

theorem State.every_beginReferenceFrame {s : State} (h : s.table.Every P) : s.beginReferenceFrame.table.Every P := by
  unfold State.beginReferenceFrame
  refine State.every_foldl (fun (s : State) (l : Fin 8) h => ?_) _ _ ?_
  · unfold State.laneAtReferenceFrame
    split
    · exact State.every_beginOutgoingFrame L _ _ _ _ _ _ h
    · exact h
  · unfold State.consoleSwitchPoint
    refine Table.every_of_slots (State.settle_slots ..) (State.every_landTable L _ ?_)
    exact State.every_completeInstant L h

theorem State.every_finishLines {s : State} (h : s.table.Every P) : s.finishLines.table.Every P :=
  State.every_foldl (fun (_ : State) (l : Fin 8) h => State.every_goOnLine L l none h) _ _ h

theorem State.every_reachFallbackLine {s : State} (l : Fin 8) (line : LineReach) (h : s.table.Every P) :
    (s.reachFallbackLine l line).table.Every P := by
  unfold State.reachFallbackLine
  dsimp only
  split
  · exact h
  · split
    · exact State.every_reachLine L _ _ _ h
    · split
      · exact State.every_reachLine L _ _ _ (State.every_completeInstant L h)
      · exact h

theorem State.every_sourceSwitchLine {s : State} (c : Option (Option Format)) (p : Nat) (h : s.table.Every P) :
    (s.sourceSwitchLine c p).table.Every P := by
  unfold State.sourceSwitchLine
  dsimp only
  split
  · exact h
  · exact h
  · split
    · refine State.every_beginReferenceFrame L ?_; exact h
    · exact h
  · refine State.every_beginReferenceFrame L ?_; exact h
  · split
    · refine State.every_beginReferenceFrame L ?_; exact h
    · refine State.every_beginReferenceFrame L ?_; exact h

theorem State.every_sourceLoss {s : State} (h : s.table.Every P) : s.sourceLoss.table.Every P := by
  unfold State.sourceLoss
  dsimp only
  split
  · exact h
  · exact h
  · refine State.every_beginReferenceFrame L ?_; exact h

theorem State.every_endIfPassed {s : State} (h : s.table.Every P) : s.endIfPassed.table.Every P := by
  unfold State.endIfPassed
  split
  · exact State.every_beginReferenceFrame L h
  · exact h

theorem State.every_setReference {s : State} (src : RefSource) (f : Format) (h : s.table.Every P) :
    (s.setReference src f).table.Every P := by
  unfold State.setReference State.reportReference State.enterFree State.selectSource
  dsimp only [State.reportIf_table]
  split
  · exact h
  · split
    · refine State.every_endIfPassed L ?_; exact h
    · split
      · exact h
      · refine State.every_endIfPassed L ?_; exact h
      · refine State.every_endIfPassed L ?_; exact h

theorem State.every_changeRx {s : State} (l : Fin 8) (x : LaneRx) (h : s.table.Every P) :
    (s.changeRx l x).table.Every P := by
  unfold State.changeRx
  simp only [State.reportIf_table]
  refine State.every_foldl (fun (s : State) (g : Fin 4) h => ?_) _ _ ?_
  · unfold State.groupChange
    split
    · exact State.every_sourcesLost L rfl h
    · exact State.every_sourcesBack L rfl h
    · exact h
  · exact h

theorem State.every_laneSwitchLine {s : State} (l : Fin 8) (n : Nat) (h : s.table.Every P) :
    (s.laneSwitchLine l n).table.Every P := by
  unfold State.laneSwitchLine
  dsimp only
  have h' := State.every_changeRx L l ((s.rx.get l).atSwitchLine s.now (classify n (s.now - (s.rx.get l).lastLine))) h
  split <;> split
  · exact State.every_sourceSwitchLine L _ _ h'
  · exact State.every_sourceSwitchLine L _ _ h'
  · exact h'
  · exact h'

theorem State.every_laneLoss {s : State} (l : Fin 8) (h : s.table.Every P) : (s.laneLoss l).table.Every P := by
  unfold State.laneLoss
  dsimp only
  have h' := State.every_changeRx L l (s.rx.get l).lost h
  split
  · exact State.every_sourceLoss L h'
  · exact h'

theorem State.every_takePacket {s : State} (l : Fin 8) (n : Nat) (p : Packet) (h : s.table.Every P) :
    (s.takePacket l n p).table.Every P := by
  unfold State.takePacket
  dsimp only
  split
  · simp only [State.setTx_table]
    refine State.every_foldl (fun (s : State) set h => ?_) _ _ ?_
    · unfold State.laneArrival
      dsimp only
      split
      · exact State.every_arrival L _ rfl h
      · exact h
    · exact h
  · exact h

theorem State.every_takeConsoleFrame {s : State} (bytes : List Byte) (h : s.table.Every P) :
    (s.takeConsoleFrame bytes).table.Every P := by
  unfold State.takeConsoleFrame
  dsimp only
  split
  · exact State.every_arrival L _ rfl h
  · split
    · exact State.every_sourcesLost L rfl h
    · exact h
  · split
    · exact State.every_sourcesBack L rfl h
    · exact h
  · exact h

/-! ### The commands -/

theorem State.every_doAdmit {s : State} (params : List Byte) (h : s.table.Every P) :
    (s.doAdmit params).table.Every P := by
  unfold State.doAdmit
  dsimp only
  split
  · exact h
  · next r hr =>
    split
    · exact h
    · split
      · exact h
      · split
        · exact h
        · split
          · exact h
          · refine Table.every_of_slots (State.settle_slots ..) (Table.every_put h ?_)
            rintro t ⟨⟩
            exact L.admitted _ r _ _ hr

theorem State.every_doAmend {s : State} (params : List Byte) (h : s.table.Every P) :
    (s.doAmend params).table.Every P := by
  unfold State.doAmend
  dsimp only
  split
  · exact h
  · next r hr =>
    split
    · exact h
    · next i t hl =>
      split
      · exact h
      · split
        · exact h
        · split
          · exact h
          · next h1 h2 h3 =>
            refine Table.every_of_slots (State.settle_slots ..) (Table.every_put h ?_)
            rintro _ ⟨⟩
            refine L.amended t r _ _ (h i t (Table.lookup_eq_some hl).1) (Bool.eq_false_iff.mpr h1) (Bool.eq_false_iff.mpr h2) ?_
            intro hs
            simpa [hs] using h3

theorem State.every_doAttach {s : State} (params : List Byte) (h : s.table.Every P) :
    (s.doAttach params).table.Every P := by
  unfold State.doAttach
  dsimp only
  split
  · exact h
  · next label d hr =>
    split
    · exact h
    · next i t hl =>
      have ht := h i t (Table.lookup_eq_some hl).1
      split
      · exact h
      · next h1 =>
        split
        · refine Table.every_of_slots (State.settle_slots ..) (Table.every_put h ?_)
          rintro _ ⟨⟩
          exact L.stayed t d ht (Bool.eq_false_iff.mpr h1)
        · split
          · exact h
          · split
            · exact h
            · split
              · exact h
              · next h2 _ h3 _ =>
                refine Table.every_of_slots (State.settle_slots ..) (Table.every_put h ?_)
                rintro _ ⟨⟩
                exact L.attached t d ht (Bool.eq_false_iff.mpr h1) (Option.not_isSome_iff_eq_none.mp h2) (Nat.lt_of_not_le h3)

theorem State.every_doDetach {s : State} (params : List Byte) (h : s.table.Every P) :
    (s.doDetach params).table.Every P := by
  unfold State.doDetach
  dsimp only
  split
  · exact h
  · next label d hr =>
    split
    · exact h
    · next i t hl =>
      have ht := h i t (Table.lookup_eq_some hl).1
      split
      · exact h
      · next h1 =>
        split
        · exact h
        · next h2 =>
          split
          · exact h
          · next e he =>
            rw [State.answer_table]
            refine Table.every_of_slots (State.settle_slots ..) ?_
            dsimp only
            split
            · next h3 =>
              refine Table.every_of_slots rfl (Table.every_put h ?_)
              rintro _ ⟨⟩
              exact L.dropped t d e _ _ ht (Bool.eq_false_iff.mpr h1) (Bool.eq_false_iff.mpr h2) he h3
            · next h3 =>
              refine Table.every_put h ?_
              rintro _ ⟨⟩
              exact L.left t d e ht (Bool.eq_false_iff.mpr h1) (Bool.eq_false_iff.mpr h2) he (Bool.eq_false_iff.mpr h3)

theorem State.every_doRetire {s : State} (params : List Byte) (h : s.table.Every P) :
    (s.doRetire params).table.Every P := by
  unfold State.doRetire
  dsimp only
  split
  · exact h
  · next label hr =>
    split
    · exact h
    · next i t hl =>
      split
      · exact h
      · split
        · exact h
        · split
          · exact h
          · next h1 h2 h3 =>
            rw [State.answer_table]
            refine Table.every_of_slots (State.settle_slots ..) ?_
            dsimp only
            refine Table.every_of_slots (Table.release_slots ..) (Table.every_put h ?_)
            intro u hu
            split at hu
            · cases hu
            · cases hu
              exact L.retired t (h i t (Table.lookup_eq_some hl).1) (Bool.eq_false_iff.mpr h1) (Bool.eq_false_iff.mpr h2)
                (Option.not_isSome_iff_eq_none.mp h3)

theorem State.every_doGuard {s : State} (params : List Byte) (h : s.table.Every P) :
    (s.doGuard params).table.Every P := by
  unfold State.doGuard
  split
  · exact h
  · next label on hr =>
    split
    · exact h
    · next i t hl =>
      split
      · exact h
      · next h1 =>
        refine Table.every_put h ?_
        rintro _ ⟨⟩
        exact L.guarded t on (h i t (Table.lookup_eq_some hl).1) (Bool.eq_false_iff.mpr h1)

omit L in
theorem State.every_doLane {s : State} (params : List Byte) (h : s.table.Every P) :
    (s.doLane params).table.Every P := by
  unfold State.doLane
  split
  · exact h
  · split
    · exact h
    · rw [State.answer_table]
      exact Table.every_of_slots (State.settle_slots ..) h

omit L in
/-- After RESTART and PURGE the table holds no record (R73, R72). -/
theorem State.doRestart_table (s : State) : s.doRestart.table = Table.reset := by
  unfold State.doRestart
  rw [State.answer_table]

omit L in
theorem State.doPurge_slots (s : State) : s.doPurge.table.slots = Table.reset.slots := by
  unfold State.doPurge
  rw [State.answer_table, State.reportTable_table]

theorem State.every_perform {s : State} (c : Command) (params : List Byte) (h : s.table.Every P) :
    (s.perform c params).table.Every P := by
  cases c with
  | identify | reference | referenceQuery | align | setup | attend | find | owner | survey | laneQuery =>
    simp only [State.perform, State.doIdentify, State.doReference, State.doReferenceQuery, State.doAlign,
      State.doSetup, State.doAttend, State.doFind, State.doOwner, State.doSurvey, State.doLaneQuery]
    repeat' split
    all_goals first
      | exact h
      | exact State.every_setReference L _ _ h
  | restart => exact Table.every_of_slots (congrArg Table.slots s.doRestart_table) (Table.every_reset P)
  | purge => exact Table.every_of_slots s.doPurge_slots (Table.every_reset P)
  | admitTrack => exact State.every_doAdmit L _ h
  | amend => exact State.every_doAmend L _ h
  | attach => exact State.every_doAttach L _ h
  | detach => exact State.every_doDetach L _ h
  | retire => exact State.every_doRetire L _ h
  | guard => exact State.every_doGuard L _ h
  | lane => exact State.every_doLane _ h

theorem State.every_judgeFrame {s : State} (frame : List Byte) (h : s.table.Every P) :
    (s.judgeFrame frame).table.Every P := by
  unfold State.judgeFrame
  split
  · exact h
  · exact h
  · split
    · unfold State.executeFrame
      split
      · exact h
      · exact State.every_perform L _ _ h
    · exact h

/-- A law on records that every operation on a record keeps is kept by every command. -/
theorem exec_every {s t : State} (c : Instr) (h : s.table.Every P) (ht : exec c s = .next t) : t.table.Every P := by
  have run : ∀ f : State → State, (f s).table.Every P → s.running f = .next t → t.table.Every P := by
    intro f hf hr
    unfold State.running at hr
    split at hr
    · cases hr; exact h
    · cases hr; exact hf
  have whole : ∀ (c : Command) params f, (∀ s : State, s.table.Every P → (f s).table.Every P) →
      (s.running fun s => s.wholeFrame c params f) = .next t → t.table.Every P := by
    intro c params f hf
    refine run _ ?_
    unfold State.wholeFrame
    split
    · exact h
    · exact hf _ h
  cases c with
  | resetAsserted => cases ht; exact h
  | resetReleased => cases ht; exact Table.every_reset P
  | selectAsserted =>
    simp only [exec, execSelectAsserted] at ht
    refine run _ ?_ ht; exact h
  | selectReleased after bits =>
    simp only [exec, execSelectReleased] at ht
    refine run _ ?_ ht
    try dsimp only
    split
    · exact State.every_judgeFrame L _ h
    · exact h
  | portByteShifted b =>
    simp only [exec, execPortByteShifted] at ht
    refine run _ ?_ ht
    split
    · exact h
    · exact h
  | identify params =>
    simp only [exec, execIdentify] at ht
    exact whole _ params _ (fun s h => State.every_perform L .identify params h) ht
  | restart params =>
    simp only [exec, execRestart] at ht
    exact whole _ params _ (fun s h => State.every_perform L .restart params h) ht
  | setup params =>
    simp only [exec, execSetup] at ht
    exact whole _ params _ (fun s h => State.every_perform L .setup params h) ht
  | attend params =>
    simp only [exec, execAttend] at ht
    exact whole _ params _ (fun s h => State.every_perform L .attend params h) ht
  | admitTrack params =>
    simp only [exec, execAdmit] at ht
    exact whole _ params _ (fun s h => State.every_perform L .admitTrack params h) ht
  | find params =>
    simp only [exec, execFind] at ht
    exact whole _ params _ (fun s h => State.every_perform L .find params h) ht
  | owner params =>
    simp only [exec, execOwner] at ht
    exact whole _ params _ (fun s h => State.every_perform L .owner params h) ht
  | amend params =>
    simp only [exec, execAmend] at ht
    exact whole _ params _ (fun s h => State.every_perform L .amend params h) ht
  | attach params =>
    simp only [exec, execAttach] at ht
    exact whole _ params _ (fun s h => State.every_perform L .attach params h) ht
  | detach params =>
    simp only [exec, execDetach] at ht
    exact whole _ params _ (fun s h => State.every_perform L .detach params h) ht
  | retire params =>
    simp only [exec, execRetire] at ht
    exact whole _ params _ (fun s h => State.every_perform L .retire params h) ht
  | guard params =>
    simp only [exec, execGuard] at ht
    exact whole _ params _ (fun s h => State.every_perform L .guard params h) ht
  | survey params =>
    simp only [exec, execSurvey] at ht
    exact whole _ params _ (fun s h => State.every_perform L .survey params h) ht
  | purge params =>
    simp only [exec, execPurge] at ht
    exact whole _ params _ (fun s h => State.every_perform L .purge params h) ht
  | lane params =>
    simp only [exec, execLane] at ht
    exact whole _ params _ (fun s h => State.every_perform L .lane params h) ht
  | laneQuery params =>
    simp only [exec, execLaneQuery] at ht
    exact whole _ params _ (fun s h => State.every_perform L .laneQuery params h) ht
  | reference params =>
    simp only [exec, execReference] at ht
    exact whole _ params _ (fun s h => State.every_perform L .reference params h) ht
  | referenceQuery params =>
    simp only [exec, execReferenceQuery] at ht
    exact whole _ params _ (fun s h => State.every_perform L .referenceQuery params h) ht
  | align params =>
    simp only [exec, execAlign] at ht
    exact whole _ params _ (fun s h => State.every_perform L .align params h) ht
  | houseSwitchLine lines after =>
    simp only [exec, execHouseSwitchLine] at ht
    refine run _ ?_ ht
    try dsimp only
    split
    · rw [State.reportReference_table]
      exact State.every_sourceSwitchLine L _ _ h
    · exact h
  | houseLost =>
    simp only [exec, execHouseLost] at ht
    refine run _ ?_ ht
    try dsimp only
    split
    · rw [State.reportReference_table]
      exact State.every_sourceLoss L h
    · exact h
  | referenceFrameStart =>
    simp only [exec, execReferenceFrameStart] at ht
    refine run _ ?_ ht
    try dsimp only
    split
    · exact h
    · rw [State.reportReference_table]
      exact State.every_beginReferenceFrame L h
  | referenceSampleInstant early =>
    simp only [exec, execReferenceSampleInstant] at ht
    refine run _ ?_ ht
    try dsimp only
    split
    · exact State.every_instantWork L early h
    · split
      · exact State.every_instantWork L early h
      · exact h
  | rampReachesTarget label =>
    simp only [exec, execRampReachesTarget] at ht
    refine run _ ?_ ht
    try dsimp only
    split
    · exact h
    · next i u hl =>
      split
      · refine Table.every_put h ?_
        rintro _ ⟨⟩
        exact L.stepped u (h i u (Table.lookup_eq_some hl).1)
      · exact h
  | consoleFrameTaken bytes =>
    simp only [exec, execConsoleFrameTaken] at ht
    refine run _ ?_ ht; exact State.every_takeConsoleFrame L bytes h
  | laneSwitchLine l lines after =>
    simp only [exec, execLaneSwitchLine] at ht
    refine run _ ?_ ht; rw [State.reportReference_table]; exact State.every_laneSwitchLine L l lines (s := s.elapse after) h
  | laneFeedLost l =>
    simp only [exec, execLaneFeedLost] at ht
    refine run _ ?_ ht
    try dsimp only
    split
    · exact h
    · rw [State.reportReference_table]
      exact State.every_laneLoss L l h
  | packetTaken l line bytes =>
    simp only [exec, execPacketTaken] at ht
    refine run _ ?_ ht
    try dsimp only
    split
    · exact State.every_takePacket L _ _ _ h
    · exact h
  | packetCutOff l line bytes =>
    simp only [exec, execPacketCutOff] at ht
    refine run _ ?_ ht
    try dsimp only
    split
    · exact h
    · exact h
  | countFieldDamaged l line bytes =>
    simp only [exec, execCountFieldDamaged] at ht
    refine run _ ?_ ht
    try dsimp only
    split
    · exact h
    · exact h
  | outgoingFrameStart l =>
    simp only [exec, execOutgoingFrameStart] at ht
    refine run _ ?_ ht; exact State.every_handedFrameStart L l h
  | lineReached l line =>
    simp only [exec, execLineReached] at ht
    refine run _ ?_ ht
    try dsimp only
    split
    · exact State.every_goOnLine L l _ h
    · split
      · exact State.every_reachLine L _ _ _ h
      · exact State.every_reachFallbackLine L _ _ h
  | flatLineReached l line =>
    simp only [exec, execFlatLineReached] at ht
    refine run _ ?_ ht
    try dsimp only
    split
    · split
      · exact State.every_goOnLine L l _ h
      · exact State.every_reachLine L _ _ _ h
    · exact h

end

end Sys2Proof.Machine
end

