-- ==== Sys2Proof/WellFormed.lean ====
section
/-! DEFINITION. Which commands the outside can send: the bounds that the spec puts on what an event carries. The machine gives every command a meaning, well-formed or not (log 11, log 12). -/

namespace Sys2Proof

/-- The parameter bytes of a frame that the port takes: at most 60 (10 R171). -/
def paramsWellFormed (params : List Byte) : Bool := params.length ≤ Config.maxParams

/-- A label that can name a track: 1 to 65535 (04 R53). -/
def labelWellFormed (label : Nat) : Bool := 1 ≤ label && label ≤ 65535

/-- A frame has at least its switch line (01 section 1.2). -/
def linesWellFormed (lines : Nat) : Bool := 1 ≤ lines

/-- What each command may carry: whole frames of at most 60 parameter bytes (10 R171), one to eight bits of the port
(10 R168), fewer than eight of an unfinished byte (10 R169), labels of 1 to 65535 (04 R53), console frames of 195 bytes
(12 R183), frames of at least one line and lines numbered from 1 (00 section 6). -/
def Instr.wellFormed : Instr → Bool
  | .resetAsserted => true
  | .resetReleased => true
  | .selectAsserted => true
  | .selectReleased _ bits => bits.length < 8
  | .identify params => paramsWellFormed params
  | .restart params => paramsWellFormed params
  | .setup params => paramsWellFormed params
  | .attend params => paramsWellFormed params
  | .admitTrack params => paramsWellFormed params
  | .find params => paramsWellFormed params
  | .owner params => paramsWellFormed params
  | .amend params => paramsWellFormed params
  | .attach params => paramsWellFormed params
  | .detach params => paramsWellFormed params
  | .retire params => paramsWellFormed params
  | .guard params => paramsWellFormed params
  | .survey params => paramsWellFormed params
  | .purge params => paramsWellFormed params
  | .lane params => paramsWellFormed params
  | .laneQuery params => paramsWellFormed params
  | .reference params => paramsWellFormed params
  | .referenceQuery params => paramsWellFormed params
  | .align params => paramsWellFormed params
  | .houseSwitchLine lines _ => linesWellFormed lines
  | .houseLost => true
  | .referenceFrameStart => true
  | .referenceSampleInstant _ => true
  | .rampReachesTarget label => labelWellFormed label
  | .consoleFrameTaken bytes => bytes.length = 195
  | .laneSwitchLine _ lines _ => linesWellFormed lines
  | .laneFeedLost _ => true
  | .packetTaken _ line _ => linesWellFormed line
  | .packetCutOff _ line _ => linesWellFormed line
  | .outgoingFrameStart _ => true
  | .lineReached _ _ => true
  | .flatLineReached _ _ => true
  | .portByteShifted bits => 1 ≤ bits.length && bits.length ≤ 8
  | .countFieldDamaged _ line _ => linesWellFormed line

end Sys2Proof
end

