-- ==== Sys2Proof/Tests/Slice0.lean ====
section
/-! SUPPORT. Tests: the well-formedness checks refuse ill-formed commands, the spec's worked figures come out, and every statement with hypotheses has a state and operands that meet them. -/

namespace Sys2Proof.Tests

open Sys2Proof.Machine

-- one theorem after another: each is a kernel evaluation of its own
set_option Elab.async false

/-! ### Small states -/

/-- The state that a command leaves. -/
def after (c : Instr) (s : State) : State :=
  match exec c s with
  | .next t => t
  | _ => s

/-- The result, the reply data and the counts after a command. -/
def answerOf (c : Instr) (s : State) : Result × List Byte := ((after c s).port.held.result, (after c s).port.held.data)

/-- The console link UP at depth 16, lane 2 group 3 EMBED. -/
def base : State := { State.reset with
  console := { ConsoleRx.reset with up := true, depth := 16 }
  tx := State.reset.tx.modify 2 fun x => { x with groups := x.groups.set 2 ⟨.embed, .w24⟩ } }

/-- A LIVE track at unity. -/
def plain (label : Nat) (source : Source) (entries : List Entry) : Track := {
  label := label, retiring := false, guarded := false, setGain := 16384, muted := false, inverted := false
  rounding := none, source := source, pendingSource := none, sourceLost := false, gainNow := 16384, ramp := none
  slipped := false, clipped := false, entries := entries }

/-- The state with a further record in way `w` of its set, map and counts following. -/
def holdingAt (w : Fin 4) (s : State) (t : Track) : State := { s with table :=
  { (s.table.put (slotOf (setOfLabel t.label) w) (some t)).claim (t.entries.map (·.dest)) t.label with
    occupancy := s.table.occupancy + 1, staged := s.table.staged + t.stagedItems } }

def holding (s : State) (t : Track) : State := holdingAt 0 s t

/-- Track 4660 of section 5.10.1, on a console source: 2/3/1 ACTIVE with lag 8 and console 17 JOINING. -/
def track4660 : Track := plain 4660 (.console 2) [⟨.lane 2 2 0, .active, false, 8, 5⟩, ⟨.console 16, .joining, false, 0, 0⟩]

def carried : State := holding base track4660
def slot4660 : Fin 256 := slotOf (setOfLabel 4660) 0

/-- The state whose track 4660 is changed. -/
def with4660 (f : Track → Track) : State := holding base (f track4660)

/-- A lane receiver LOCKED to a format, group 1 PRESENT at depth 16. -/
def lockedRx (f : Format) : LaneRx := { LaneRx.reset with
  state := .locked, format := some f, candidate := some f, count := 2
  groups := LaneRx.reset.groups.modify 0 fun g => { g with present := true, depth := 16 } }

/-- Lane 5 LOCKED in P2. -/
def lane5 : State := { base with rx := base.rx.set 5 (lockedRx .p2) }

/-- A transaction with a frame in progress. -/
def inFrame (frame : List Byte) : State := { base with port := ⟨base.port.held, true, base.port.held.bytes, 0, frame, [], none⟩ }

/-- The first packet of 12.3: group 3, phase 1, one set of four 24-bit samples of 0. -/
def quietPacket : List Byte := [0x5A, 0xC3, 3, 1, 1, 0, 0, 0, 0, 0, 0, 0, 0, 0, 0, 0, 0, 0xDE]

/-! ### Well-formedness: an ill-formed term for each check -/

theorem test_params_over_60_ill_formed : (Instr.admitTrack (List.replicate 61 0)).wellFormed = false := by decide
theorem test_params_60_well_formed : (Instr.admitTrack (List.replicate 60 0)).wellFormed = true := by decide
theorem test_eight_bits_ill_formed : (Instr.selectReleased 0 (List.replicate 8 true)).wellFormed = false := by decide
theorem test_no_bits_ill_formed : (Instr.portByteShifted []).wellFormed = false := by decide
theorem test_nine_bits_ill_formed : (Instr.portByteShifted (List.replicate 9 true)).wellFormed = false := by decide
theorem test_label_0_ill_formed : (Instr.rampReachesTarget 0).wellFormed = false := by decide
theorem test_label_65536_ill_formed : (Instr.rampReachesTarget 65536).wellFormed = false := by decide
theorem test_console_frame_194_ill_formed : (Instr.consoleFrameTaken (List.replicate 194 0)).wellFormed = false := by
  decide +kernel
theorem test_frame_of_no_lines_ill_formed : (Instr.houseSwitchLine 0 1).wellFormed = false := by decide
theorem test_lane_frame_of_no_lines_ill_formed : (Instr.laneSwitchLine 0 0 1).wellFormed = false := by decide
theorem test_line_0_ill_formed : (Instr.packetTaken 0 0 []).wellFormed = false := by decide

/-! ### Figures of chapters 1, 4, 7, 8 and 12 -/

/-- Section 11.1 and 11.5: sets and slots of labels. -/
theorem test_set_index : [201, 202, 700, 12, 264, 516, 1052, 1304, 1305].map setIndex = [10, 9, 54, 12, 12, 12, 12, 12, 13] := by
  decide

/-- 8.9: line j = 2 of P2 phase 0 has share 2; 8.10: 427 draws on the first 300 carriage lines. -/
theorem test_share_plan : (Plan.of .p2 0).share 2 = 2 ∧ (Plan.of .p2 0).cumulative 300 = 427 := by decide

/-- Samples worked, section 7.6: rows 1, 2, 4, 5, 6 in the three modes. -/
theorem test_samples_worked : ([Rounding.nearestEven, .floor, .towardZero].map fun m =>
    (scaleSample false 12000 m .w24 1000000, scaleSample false 12000 m .w24 (BitVec.ofInt 24 (-1000000)),
     scaleSample false 16384 m .w20 (BitVec.ofInt 24 (-3)), scaleSample false 16384 m .w20 (BitVec.ofInt 24 (-8)),
     scaleSample false 16384 m .w20 24)) =
    [(732422, -732422, 0, 0, 2), (732421, -732422, -1, -1, 1), (732421, -732421, 0, 0, 1)] := by decide +kernel

/-- Samples worked, rows 7 and 8: the limit and the clipped flag. -/
theorem test_samples_clip : ([Rounding.nearestEven, .floor].map fun m =>
    (({ track4660 with inverted := true }).shape m .w20 0x800000, ({ track4660 with inverted := true }).clips m .w20 0x800000)) =
      [(524287, true), (524287, false)] ∧
    ({ track4660 with gainNow := 65535 }).shape .floor .w24 0x7FFFFF = 8388607 := by decide +kernel

/-- Section 7.7: gain now at steps 2, 4 and 9. -/
theorem test_ramp_values : Ramp.gainAt ⟨16384, 0, 480, 0⟩ 100 = 12971 ∧ Ramp.gainAt ⟨12971, 20000, 480, 0⟩ 240 = 16485 ∧
    Ramp.gainAt ⟨0, 8192, 96, 0⟩ 48 = 4096 ∧ Ramp.gainAt ⟨0, 8192, 96, 0⟩ 8 = 682 := by decide

/-- 12.3: the packet built for four samples of 0 has check byte DEhex, and is taken as valid on a P2 feed. -/
theorem test_built_packet : buildPacket 2 1 1 .w24 [0, 0, 0, 0] = quietPacket ∧
    (search (0x11 :: quietPacket)) = .taken ⟨3, 1, 1, List.replicate 12 0, 0xDE⟩ := by decide +kernel

/-! ### Each command once -/

/-- 5.10.1: a leave staged, another track refused, the leave cancelled with its lag kept and SWITCHES_DONE reported. -/
theorem test_detach_stages_a_leave : let t := after (.detach (encodeAttach 4660 (.lane 2 2 0))) carried
    t.port.held.result = .done ∧ t.table.staged = 2 ∧
    (t.table.owning (.lane 2 2 0)).map (fun x => (x.2.2.phase, x.2.2.lag)) = some (.leaving .active, 8) := by decide +kernel

theorem test_attach_of_another_track_occupied : (answerOf (.attach (encodeAttach 100 (.lane 2 2 0)))
    (holding carried (plain 100 (.console 2) []))).1 = .occupied := by decide +kernel

theorem test_attach_cancels_a_leave :
    let s := holding base (plain 4660 (.console 2) [⟨.lane 2 2 0, .leaving .active, false, 9, 5⟩])
    let t := after (.attach (encodeAttach 4660 (.lane 2 2 0))) { s with attn := ⟨some .switchesDone, .none, 256, false, false⟩ }
    (t.table.owning (.lane 2 2 0)).map (fun x => (x.2.2.phase, x.2.2.lag)) = some (.active, 9) ∧ t.table.staged = 0 ∧
    t.attn.requestA = true := by decide +kernel

/-- 11.5: label 264 takes the next way of set 12, slot 49. -/
theorem test_admit_takes_the_lowest_empty_way : answerOf (.admitTrack (AdmitRequest.encode ⟨264, .console 7, 16384, false, false, none, [.console 41]⟩))
    (holding base (plain 12 (.console 11) [])) = (.done, [49]) := by decide +kernel

/-- 11.4: FIND 201 when it is gone answers set 10 and occupancy 0. -/
theorem test_find_absent : answerOf (.find (bytes16 201)) base = (.noSuchTrack, [10, 0]) := by decide +kernel

theorem test_owner_answers_label_and_phase : answerOf (.owner [1, 2, 3, 1]) carried = (.done, [0x12, 0x34, 2]) := by
  decide +kernel

/-- 5.10.2 step 1: the change is staged, the JOINING entry taken and the ACTIVE one not. -/
theorem test_amend_stages_a_source : let t := after (.amend (AmendRequest.encode ⟨4660, none, none, none, none, some (.lane 5 0 1), false, false⟩)) carried
    t.table.staged = 2 ∧ (t.table.lookup 4660).map (fun x => x.2.entries.map (·.taken)) = some [false, true] := by
  decide +kernel

/-- 7.7 step 1: a mute starts a ramp from 16384 to 0. -/
theorem test_amend_mute_ramps : ((after (.amend (AmendRequest.encode ⟨4660, none, some true, none, none, none, false, false⟩)) carried).table.lookup 4660).map
    (fun x => (x.2.gainNow, x.2.ramp)) = some (16384, some ⟨16384, 0, 480, 0⟩) := by decide +kernel

/-- R94: the JOINING entry goes at once, the ACTIVE one leaves. -/
theorem test_retire_leaves : let t := after (.retire (bytes16 4660)) carried
    t.table.staged = 1 ∧ (t.table.lookup 4660).map (fun x => (x.2.retiring, x.2.entries.map (·.phase))) =
      some (true, [.leaving .active]) ∧ t.table.ownerOf (.console 16) = none := by decide +kernel

theorem test_guard_sets_the_flag : ((after (.guard (bytes16 4660 ++ [1])) carried).table.lookup 4660).map (·.2.guarded) = some true := by
  decide +kernel

theorem test_survey_lists_the_label : answerOf (.survey [0, 0, 16, 0, 0, 0, 2]) carried = (.done, [1, 0x12, 0x34, 1, 0]) := by
  decide +kernel

theorem test_purge_reports_a_fall : let t := after (.purge []) { carried with attn := ⟨none, .falling, 0, false, false⟩ }
    t.table = Table.reset ∧ t.attn.requestB = true := by decide +kernel

theorem test_lane_in_use : (answerOf (.lane (encodeLane 2 LaneSetting.reset)) carried).1 = .groupInUse ∧
    (after (.lane (encodeLane 2 LaneSetting.reset)) base).table.staged = 1 := by decide +kernel

theorem test_lane_query_shows_the_owned_channel :
    ((answerOf (.laneQuery [2]) carried).2.drop (11 + 9 + 3 + 8)).take 4 = [0, 0, 0, 1] := by decide +kernel

/-- R177, and the port after power-on (10.6.2): code 00hex, DONE, 7 bytes. -/
theorem test_identify : answerOf (.identify []) base = (.done, [0x8C, 0x56, 1, 8, 64, 4, 64]) := by decide +kernel
theorem test_power_on_reply : (after .selectAsserted (after .resetReleased base)).port.outgoing = [0, 0, 7, 0x8C, 0x56, 1, 8, 64, 4, 64] := by
  decide +kernel

theorem test_restart_raises_attention : (after (.restart []) { base with attn := ⟨none, .none, 9, false, false⟩ }).attentionLine = true := by
  decide +kernel

theorem test_setup_clamps : let t := after (.setup [0xFF, 0xFF, 2, 5, 1, 0x01, 0x01]) base
    t.gain = ⟨4096, .towardZero⟩ ∧ (t.attn.selectorA, t.attn.selectorB, t.attn.threshold) = (some .slip, .rising, 256) := by
  decide +kernel

theorem test_attend_clears_after_answering : let t := after (.attend [1]) base
    t.port.held.data.take 2 = [1, 0] ∧ t.attn.requestA = false := by decide +kernel

theorem test_reference_free : (after (.reference [2, 0, 3]) base).port.held.data = [2, 0, 0, 1, 0, 0, 3, 0, 0] := by decide +kernel
/-- R27, R20: a frame begun in a lock of 1920.96 sample periods keeps its spacing in FREE and takes the nominal one as HOLDOVER begins. -/
theorem test_holdover_spaces_the_frame_in_progress :
    let s : State := { base with ref := { base.ref with state := .locked, lockedPeriod := 1920960000, frameLength := 1920960000, pace := 1920960000 } }
    let t := after (.reference [2, 0, 1]) s
    (t.ref.state, t.ref.instantDue 1000) = (.free, 1000500000) ∧
    ((after (.reference [1, 4, 1]) t).ref.state, (after (.reference [1, 4, 1]) t).ref.instantDue 1000) = (.holdover, 1000000000) := by
  decide +kernel
theorem test_align_then_query : (answerOf (.referenceQuery []) (after (.align []) base)).2 = [0, 0, 2, 1, 0, 1, 1, 0, 0] := by
  decide +kernel

theorem test_reset_asserted_halts : after .houseLost (after .resetAsserted base) = after .resetAsserted base := by decide +kernel
theorem test_port_byte_shifted : let t := after (.portByteShifted [false, false, false, false, false, false, false, true]) (inFrame [])
    t.port.frame = [1] ∧ t.port.dataOut = some 0 ∧ t.port.shifted = 1 := by decide +kernel
/-- R167: the bits of a byte not yet complete stand in the port, and go as the transaction ends. -/
theorem test_bits_stand_until_released : let t := after (.portByteShifted [true, false, true]) (inFrame [1])
    t.port.bits = [true, false, true] ∧ t.port.frame = [1] ∧ (after (.selectReleased 0 []) t).port.bits = [] := by decide +kernel
theorem test_select_released_executes : (after (.selectReleased 0 [true]) (inFrame [0x12, 4, 1, 2, 3, 1])).port.held =
    ⟨0x12, .done, [0, 0, 0]⟩ := by decide +kernel

/-- R22, R23: the second matching frame locks, and the frame that begins takes format P2 and phase 0. -/
theorem test_house_locks : let t := after (.houseSwitchLine 1125 (8008 * 1000000 / 5)) { base with ref := { base.ref with
      counted := true, candidate := some .p2, count := 1 } }
    (t.ref.state, t.ref.format, t.ref.phase) = (.locked, .p2, 0) := by decide +kernel
theorem test_house_lost : (after .houseLost base).ref.present = false ∧ (after .houseLost base).now = 4800 * 1000000 := by
  decide +kernel
theorem test_reference_frame_lands_the_join :
    ((after .referenceFrameStart carried).table.owning (.console 16)).map (fun x => (x.2.2.phase, x.2.2.lag)) = some (.active, 8) := by
  decide +kernel
theorem test_instant_emits_a_frame : let t := after (.referenceSampleInstant 0) carried
    t.ref.emitted = 1 ∧ t.consoleOut.take 4 = [0xE1, 0x4B, 0x72, 0] := by decide +kernel
theorem test_ramp_reaches_target : ((after (.rampReachesTarget 4660) (with4660 fun t =>
    { t with setGain := 20000, ramp := some ⟨16384, 20000, 96, 95⟩ })).table.lookup 4660).map (fun x => (x.2.gainNow, x.2.ramp)) =
      some (20000, none) := by decide +kernel
theorem test_console_frame_arrives : ((after (.consoleFrameTaken (consoleFrame (List.replicate 64 7))) carried).table.owning
    (.lane 2 2 0)).map (·.2.2.lag) = some 9 := by decide +kernel
theorem test_lane_switch_line_seeks : ((after (.laneSwitchLine 5 1125 7) base).rx.get 5).state = .seeking := by decide +kernel
theorem test_lane_feed_lost : ((after (.laneFeedLost 5) lane5).rx.get 5).groupPresent 0 = false := by decide +kernel
theorem test_packet_taken : let t := after (.packetTaken 5 3 quietPacket) lane5
    ((t.rx.get 5).groups.get 2).validSeen = true ∧ (t.rx.get 5).arrivingPhase = some 1 := by decide +kernel
theorem test_packet_cut_off : (((after (.packetCutOff 5 3 (quietPacket.take 9)) lane5).rx.get 5).groups.get 2).damagedSeen = true := by
  decide +kernel
theorem test_count_field_damaged : (((after (.countFieldDamaged 5 3 [0x5A, 0xC3, 3, 1, 5]) lane5).rx.get 5).groups.get 2).damagedSeen = true := by
  decide +kernel
theorem test_outgoing_frame_lands_the_setting : let t := after (.outgoingFrameStart 2) { carried with
      tx := carried.tx.modify 2 fun x => { x with handed := [⟨some .p2, []⟩], staged := some (x.groups.set 2 ⟨.embed, .w20⟩) } }
    (t.tx.get 2).mode = .follow ∧ (t.tx.get 2).format = .p2 ∧ ((t.tx.get 2).groups.get 2).word = .w20 := by decide +kernel

/-- 8.9: line 5 of a P2 frame of phase 0 builds one packet of 30 bytes for group 3 and takes two samples of lag. -/
theorem test_line_builds_a_packet : let t := after (.lineReached 2 ⟨5, none⟩) { carried with
      tx := carried.tx.modify 2 fun x => { x with mode := .follow, format := .p2, plan := Plan.of .p2 0, lines := 4 } }
    (t.tx.get 2).blanking.length = 30 ∧ (t.tx.get 2).blanking.take 5 = [0x5A, 0xC3, 3, 0, 2] ∧
    (t.table.owning (.lane 2 2 0)).map (·.2.2.lag) = some 6 := by decide +kernel
theorem test_flat_line_reached : ((after (.flatLineReached 2 ⟨5, none⟩) { base with
      tx := base.tx.modify 2 fun x => { x with mode := .follow } }).tx.get 2).lines = 1 := by decide +kernel

/-- The next line of lane 2 in FOLLOW is line 5 of a P2 frame of phase 0, of share 2, and track 4660 plays 1000 at every instant. -/
def following : State := { carried with
  gain := ⟨0, .nearestEven⟩
  console := { carried.console with windows := carried.console.windows.map (Bank.map fun _ => 1000) }
  tx := carried.tx.modify 2 fun x => { x with mode := .follow, format := .p2, plan := Plan.of .p2 0, lines := 4 } }

/-- Line 5 reached, and the draws of the line that these list made. -/
def opened (draws : List (Fin 4 × Fin 4)) : State := after (.lineReached 2 ⟨5, some draws⟩) following

def drawnValues (s : State) : Option (List (Fin 4 × Int)) := (s.tx.get 2).line.bind fun line => line.packets.head?.map (·.drawn)

/-- R133: a change of gain between two draws of one line affects the second and not the first. -/
theorem test_mute_between_two_draws : drawnValues (opened [(2, 0)]) = some [(0, 1000)] ∧
    drawnValues (after (.lineReached 2 ⟨5, some [(2, 0)]⟩)
      (after (.amend (AmendRequest.encode ⟨4660, none, some true, none, none, none, false, false⟩)) (opened [(2, 0)]))) =
      some [(0, 1000), (0, 0)] := by decide +kernel

/-- R139: the lines of a FALLBACK frame of P1 fall at instants 0, 1, 3 and so on, none before its own. -/
theorem test_fallback_lines_fall_at_their_instants :
    let reach (s : State) := after (.lineReached 2 ⟨0, none⟩) s
    let t := reach (reach (reach base))
    (t.tx.get 2).lines = 2 ∧ t.ref.emitted = 2 ∧ t.ref.owed = true ∧
    ((reach (after (.referenceSampleInstant 0) (after (.referenceSampleInstant 0) t))).tx.get 2).lines = 3 := by decide +kernel

/-! ### Witnesses: states and operands that meet the hypotheses of each statement -/

theorem witness_StepRunsTheFrontCommand : ({ base with pending := [.houseLost, .identify []] } : State).pending =
    .houseLost :: [.identify []] ∧ base.pending = [] := ⟨rfl, rfl⟩

theorem witness_SignalsAreNoWaysOfControl : isSignal .houseLost = true ∧ ∃ t, exec .houseLost base = .next t := ⟨rfl, _, rfl⟩

theorem witness_ResetLine : (after .resetAsserted carried).resetHeld = true ∧ Instr.houseLost ≠ .resetAsserted ∧
    Instr.houseLost ≠ .resetReleased := by decide

/-- Clauses: closed; open with no bit standing and with seven. -/
theorem witness_PortOpensAndShifts : base.resetHeld = false ∧ base.port.opened = false ∧ (inFrame []).resetHeld = false ∧
    (inFrame []).port.opened = true ∧ (inFrame []).port.bits.length < 7 ∧ (inFrame []).port.bits = (bitsOf 1).take 0 ∧
    (after (.portByteShifted ((bitsOf 1).take 7)) (inFrame [])).port.bits = (bitsOf 1).take 7 ∧
    bitsOf 0x35 = [false, false, true, true, false, true, false, true] := by decide +kernel

theorem witness_TransactionShiftsTheReplyOut : carried.resetHeld = false := rfl

theorem witness_FrameInProgressCollects : base.resetHeld = false ∧ (0x10 : Byte) ≠ 0xFF ∧ (60 : Byte).toNat ≤ 60 ∧
    (List.replicate 60 (0 : Byte)).length = (60 : Byte).toNat := by decide

/-- Clauses: no transaction; empty frame; one byte; 61 announced, 60 announced and 59 there; whole with an unknown code. -/
theorem witness_SelectReleasedJudges : base.resetHeld = false ∧ base.port.opened = false ∧ (inFrame []).resetHeld = false ∧
    (inFrame []).port.opened = true ∧ (inFrame []).port.frame = [] ∧ (inFrame [1]).port.frame = [1] ∧
    (inFrame [1, 61]).port.frame = 1 :: 61 :: [] ∧ 60 < (61 : Byte).toNat ∧
    (inFrame (1 :: 60 :: List.replicate 59 0)).port.frame = 1 :: 60 :: List.replicate 59 0 ∧
    (List.replicate 59 (0 : Byte)).length < (60 : Byte).toNat ∧ (inFrame [0x05, 0]).port.frame = 0x05 :: 0 :: [] ∧
    (∀ c ∈ Command.all, c.code ≠ 0x05) := by decide +kernel

theorem witness_WholeFrameExecutesAsItsRow : (inFrame (0x10 :: 60 :: List.replicate 60 0)).resetHeld = false ∧
    (inFrame (0x10 :: 60 :: List.replicate 60 0)).port.opened = true ∧
    (inFrame (0x10 :: 60 :: List.replicate 60 0)).port.frame = Command.admitTrack.code :: 60 :: List.replicate 60 0 ∧
    (60 : Byte).toNat ≤ 60 ∧ (List.replicate 60 (0 : Byte)).length = (60 : Byte).toNat := by decide +kernel

theorem witness_RefusalChangesOnlyTheReply : base.resetHeld = false ∧ (∃ t, exec (Command.find.row (bytes16 201)) base = .next t) ∧
    (after (Command.find.row (bytes16 201)) base).port.held.result ≠ .done := ⟨rfl, ⟨_, rfl⟩, by decide +kernel⟩

/-- What the table of `carried` holds: one record. -/
theorem carried_slots : ∀ i, carried.table.slots.get i = if i = slot4660 then some track4660 else none := by decide +kernel

theorem carried_holds {i : Fin 256} {t : Track} (h : carried.table.holds i t) : i = slot4660 ∧ t = track4660 := by
  unfold Table.holds at h
  rw [carried_slots] at h
  split at h
  · exact ⟨‹_›, (Option.some.inj h).symm⟩
  · cases h

theorem carried_every {p : Track → Prop} (h : p track4660) : carried.table.Every p := fun _ _ held =>
  (carried_holds held).2 ▸ h

theorem witness_RepliesFitTheFrame : carried.resetHeld = false ∧ carried.table.Every (fun u => u.entries.length ≤ 8) ∧
    ∃ t, exec (Command.find.row (bytes16 4660)) carried = .next t := ⟨rfl, carried_every (by decide), _, rfl⟩

theorem witness_FramesAreCheckedForLengthAndFields : base.resetHeld = false ∧ 60 < (List.replicate 61 (0 : Byte)).length ∧
    (∀ p ∈ [(Command.setup, 7), (.attend, 1), (.admitTrack, 12), (.find, 2), (.owner, 4), (.amend, 3), (.attach, 6), (.detach, 6),
      (.retire, 2), (.guard, 3), (.survey, 7), (.lane, 9), (.laneQuery, 1), (.reference, 3)],
      (List.replicate (p.2 - 1) (0 : Byte)).length < p.2) ∧
    base.takes [] ∧ (∃ t, exec (.identify []) base = .next t) ∧ readSetup [] = none ∧ readAttend [4] = none ∧
    readAdmit [] = none ∧ readLabelOnly [0, 0] = none ∧ readOwner [0, 0, 0, 0] = none ∧ readAmend [0, 1, 128] = none ∧
    readAttach [0, 0, 2, 0, 0, 1] = none ∧ readGuard [0, 1, 2] = none ∧ readSurvey [0, 0, 0, 0, 0, 0, 8] = none ∧
    readLane [8] = none ∧ readReference [3, 0, 1] = none :=
  ⟨rfl, by decide, by decide, ⟨rfl, by decide⟩, ⟨_, rfl⟩, by decide +kernel⟩

theorem witness_IdentifyAlignAndQueriesAnswer : base.takes [7] ∧ [(7 : Byte)] = byteOf (7 : Fin 8) :: [] ∧ base.takes [8] ∧
    [(8 : Byte)] = 8 :: [] ∧ 8 ≤ (8 : Byte).toNat := ⟨⟨rfl, by decide⟩, by decide, ⟨rfl, by decide⟩, rfl, by decide⟩

theorem witness_RestartSetsThePart : carried.takes [] ∧ ∃ t, exec (.restart []) carried = .next t := ⟨⟨rfl, by decide⟩, _, rfl⟩

/-- Lengths and thresholds at and beyond the clamps; the least code out of range in each field. -/
theorem witness_SetupStoresItsFiveFields : (65535 : Nat) ≤ 65535 ∧ (257 : Nat) ≤ 65535 ∧
    base.takes (bytes16 65535 ++ [roundingByte (some .floor), selectorAByte none, SelectorB.code .none] ++ bytes16 257 ++ []) ∧
    base.takes [0, 0, 3, 0, 0, 0, 0] ∧ 2 < (3 : Byte).toNat ∧ 5 < (6 : Byte).toNat :=
  ⟨by decide, by decide, ⟨rfl, by decide⟩, ⟨rfl, by decide⟩, by decide, by decide⟩

theorem witness_AttendAnswersAndClears : base.takes [3] ∧ (3 : Byte).toNat < 4 ∧ base.takes [4] ∧ 4 ≤ (4 : Byte).toNat ∧
    base.takes [] ∧ ∃ t, exec (.restart []) base = .next t :=
  ⟨⟨rfl, by decide⟩, by decide, ⟨rfl, by decide⟩, by decide, ⟨rfl, by decide⟩, _, rfl⟩

def fullAdmit : AdmitRequest := ⟨65535, .lane 7 3 3, 65535, true, true, none, [.lane 0 0 0, .lane 0 0 1, .lane 0 0 2, .lane 0 0 3,
  .console 0, .console 1, .console 62, .console 63]⟩

theorem witness_FieldRanges : 128 ≤ (128 : Byte).toNat := by decide

theorem witness_EncodingsReadBack : fullAdmit.wellFormed = true ∧
    (⟨1, some 65535, some true, some false, some none, some .none, true, true⟩ : AmendRequest).wellFormed = true ∧
    (⟨4096, .floor, none, .none, 256⟩ : SetupRequest).rampLength ≤ 4096 ∧
    (⟨4096, .floor, none, .none, 256⟩ : SetupRequest).threshold ≤ 256 ∧ (1 : Nat) ≤ 65535 ∧ (256 : Nat) ≤ 256 ∧
    (1 : Nat) ≤ 16 := by decide +kernel

theorem witness_MapReadsBack : Dest.index (.lane 7 3 3) = Dest.index (.lane 7 3 3) := rfl

theorem carried_placement : carried.table.PlacementLaw := by
  refine ⟨fun i t h => ?_, fun i j t u h h' _ => ?_⟩
  · rw [(carried_holds h).1, (carried_holds h).2]
    decide +kernel
  · rw [(carried_holds h).1, (carried_holds h').1]

theorem witness_LookupFindsTheRecord : (65535 : Nat) ≤ 65535 ∧ 64 * 1023 + 63 ≤ 65535 ∧
    setOfLabel (64 * 1023 + 63) = setOfLabel (64 * 1023 + 63) ∧ carried.table.PlacementLaw ∧
    carried.table.lookup 4660 = some (slot4660, track4660) :=
  ⟨by decide, by decide, rfl, carried_placement, by decide +kernel⟩

/-- Clauses: no line open, in FOLLOW; a line open, a draw of a channel left and none left, a group with no packet; a line partly
and wholly drawn. -/
theorem witness_LineDrawsFallInTheirTurn : following.resetHeld = false ∧ (following.tx.get 2).line = none ∧
    (following.tx.get 2).mode = .follow ∧ ((opened []).tx.get 2).line = some ⟨[⟨2, .w24, 2, []⟩], []⟩ ∧
    ((opened [(2, 0), (2, 0)]).tx.get 2).line = some ⟨[⟨2, .w24, 2, [(0, 1000), (0, 1000)]⟩], []⟩ ∧
    [(0, 1000), (0, 1000)].countP (fun x : Fin 4 × Int => x.1 = 0) = 2 ∧
    [(0, 1000), (0, 1000)].countP (fun x : Fin 4 × Int => x.1 = 1) < 2 ∧
    ([⟨2, .w24, 2, []⟩].map fun p : OpenPacket => p.group).Nodup ∧
    (∀ p ∈ ([⟨2, .w24, 2, []⟩] : List OpenPacket), p.group ≠ 0) ∧
    ((after (.lineReached 2 ⟨5, none⟩) (opened [(2, 0)])).tx.get 2).line = none ∧
    ((after (.lineReached 2 ⟨1, some []⟩) { following with
      tx := following.tx.modify 2 fun x => { x with lines := 0 } }).tx.get 2).line = none := by decide +kernel

/-- 11.1: track 201 goes to slot 40. -/
def admit201 (d : Dest) : AdmitRequest := ⟨201, .console 0, 16384, false, false, none, [d]⟩

theorem witness_AdmitCreatesTheTrack : base.takes (admit201 (.lane 2 2 0)).encode ∧
    readAdmit (admit201 (.lane 2 2 0)).encode = some (admit201 (.lane 2 2 0)) ∧ base.table.lookup 201 = none ∧
    base.table.emptyWay 201 = some 40 ∧ (∀ d ∈ (admit201 (.lane 2 2 0)).dests, base.table.ownerOf d = none) ∧
    (∀ d ∈ (admit201 (.lane 2 2 0)).dests, base.embeds d = true) := ⟨⟨rfl, by decide⟩, by decide +kernel⟩

/-- Set 12 of section 11.5, full. -/
def full12 : State := holdingAt 3 (holdingAt 2 (holdingAt 1 (holdingAt 0 base (plain 12 .none [])) (plain 264 .none []))
  (plain 516 .none [])) (plain 1052 .none [])

theorem witness_AdmitRefusalsInOrder : carried.takes (admit201 (.lane 2 2 0)).encode ∧
    readAdmit (admit201 (.lane 2 2 0)).encode = some (admit201 (.lane 2 2 0)) ∧
    ((holding base (plain 201 .none [])).table.lookup 201).isSome ∧
    (full12.table.lookup 1304 = none ∧ full12.table.emptyWay 1304 = none) ∧
    (carried.table.lookup 201 = none ∧ (carried.table.emptyWay 201).isSome ∧
      (∃ d ∈ (admit201 (.lane 2 2 0)).dests, (carried.table.ownerOf d).isSome)) ∧
    ((∀ d ∈ (admit201 (.lane 0 0 0)).dests, carried.table.ownerOf d = none) ∧
      ∃ d ∈ (admit201 (.lane 0 0 0)).dests, carried.embeds d = false) := ⟨⟨rfl, by decide⟩, by decide +kernel⟩

theorem witness_FindAndOwnerRead : carried.takes (bytes16 0 ++ []) ∧ carried.takes (bytes16 4660 ++ []) ∧
    carried.takes ((Dest.lane 2 2 0).bytes ++ []) ∧ carried.table.lookup 4660 = some (slot4660, track4660) ∧
    carried.table.lookup 65535 = none ∧
    carried.table.owning (.lane 2 2 0) = some (slot4660, track4660, ⟨.lane 2 2 0, .active, false, 8, 5⟩) ∧
    carried.table.ownerOf (.console 63) = none :=
  ⟨⟨rfl, by decide⟩, ⟨rfl, by decide⟩, ⟨rfl, by decide⟩, by decide +kernel⟩

def amendOf (source : Option Source) : AmendRequest := ⟨4660, some 65535, some true, some true, some none, source, true, true⟩

/-- Clauses: no source, the same source, another source with an entry not JOINING and with all JOINING. -/
theorem witness_AmendAppliesItsItems : carried.takes (amendOf (some (.lane 5 0 1))).encode ∧
    readAmend (amendOf none).encode = some (amendOf none) ∧
    readAmend (amendOf (some (.console 2))).encode = some (amendOf (some track4660.source)) ∧
    readAmend (amendOf (some (.lane 5 0 1))).encode = some (amendOf (some (.lane 5 0 1))) ∧
    carried.table.lookup 4660 = some (slot4660, track4660) ∧ track4660.retiring = false ∧ track4660.guarded = false ∧
    track4660.pendingSource = none ∧ (Source.lane 5 0 1 ≠ track4660.source) ∧
    (∃ e ∈ track4660.entries, e.phase ≠ .joining) ∧
    (holding base (plain 4660 .none [])).table.lookup 4660 = some (slot4660, plain 4660 .none []) ∧
    (∀ e ∈ (plain 4660 .none []).entries, e.phase = .joining) := ⟨⟨rfl, by decide⟩, by decide +kernel⟩

/-- A track in each state that a command is refused for. -/
theorem witness_TrackCommandsRefuseInOrder : carried.takes (amendOf (some .none)).encode ∧
    readAmend (amendOf (some .none)).encode = some (amendOf (some .none)) ∧ readLabelOnly (bytes16 4660) = some 4660 ∧
    readGuard (bytes16 4660 ++ [1]) = some (4660, true) ∧
    readAttach (encodeAttach 4660 (.console 20)) = some (4660, .console 20) ∧ base.table.lookup 4660 = none ∧
    ((with4660 fun t => { t with retiring := true }).table.lookup 4660).map (·.2.retiring) = some true ∧
    ((with4660 fun t => { t with guarded := true }).table.lookup 4660).map (fun x => (x.2.retiring, x.2.guarded)) = some (false, true) ∧
    ((with4660 fun t => { t with pendingSource := some .none }).table.lookup 4660).map
      (fun x => (x.2.retiring, x.2.guarded, x.2.pendingSource)) = some (false, false, some .none) ∧
    carried.table.lookup 4660 = some (slot4660, track4660) ∧ track4660.entryFor (.console 20) = none ∧
    carried.table.ownerOf (.console 20) = none ∧ track4660.entryFor (.lane 0 0 0) = none ∧
    carried.table.ownerOf (.lane 0 0 0) = none ∧ carried.embeds (.lane 0 0 0) = false := ⟨⟨rfl, by decide⟩, by decide +kernel⟩

/-- Another track's destination; a list of eight. -/
theorem witness_TrackCommandsRefuseInOrder_resources :
    ((holding carried (plain 100 .none [])).table.lookup 100).map (·.2.entryFor (.lane 2 2 0)) = some none ∧
    (holding carried (plain 100 .none [])).table.ownerOf (.lane 2 2 0) = some 4660 ∧
    ((holding base (plain 100 .none (fullAdmit.dests.map fun d => Entry.new d false))).table.lookup 100).map
      (fun x => (x.2.entries.length, x.2.entryFor (.console 20))) = some (8, none) ∧
    (holding base (plain 100 .none (fullAdmit.dests.map fun d => Entry.new d false))).table.ownerOf (.console 20) = none := by
  decide +kernel

theorem witness_GuardSetsTheFlag : carried.takes (bytes16 4660 ++ [1]) ∧ readGuard (bytes16 4660 ++ [1]) = some (4660, true) ∧
    carried.table.lookup 4660 = some (slot4660, track4660) ∧ track4660.retiring = false := ⟨⟨rfl, by decide⟩, by decide +kernel⟩

def leaving4660 : Track := plain 4660 (.console 2) [⟨.lane 2 2 0, .leaving .active, false, 9, 5⟩]

/-- Clauses: a LEAVING entry, an ACTIVE entry, a destination with no entry (a list of two, then of seven entries). -/
theorem witness_AttachJoinsOrCancels : carried.takes (encodeAttach 4660 (.lane 2 2 0)) ∧
    readAttach (encodeAttach 4660 (.lane 2 2 0)) = some (4660, .lane 2 2 0) ∧
    (holding base leaving4660).table.lookup 4660 = some (slot4660, leaving4660) ∧ leaving4660.retiring = false ∧
    (leaving4660.entries.map (·.dest)).Nodup ∧
    leaving4660.entryFor (.lane 2 2 0) = some ⟨.lane 2 2 0, .leaving .active, false, 9, 5⟩ ∧
    carried.table.lookup 4660 = some (slot4660, track4660) ∧ (track4660.entries.map (·.dest)).Nodup ∧
    track4660.entryFor (.lane 2 2 0) = some ⟨.lane 2 2 0, .active, false, 8, 5⟩ ∧ track4660.entryFor (.console 63) = none ∧
    carried.table.ownerOf (.console 63) = none ∧ track4660.entries.length < 8 ∧ carried.embeds (.console 63) = true ∧
    readAttach (encodeAttach 4660 (.console 63)) = some (4660, .console 63) := ⟨⟨rfl, by decide⟩, by decide +kernel⟩

theorem track4660_list : track4660.ListLaw := ⟨by decide, by decide +kernel⟩
theorem track4660_change : track4660.ChangeLaw := ⟨(fun h => by cases h), fun _ => by decide⟩

/-- Clauses: the JOINING, the ACTIVE and a LEAVING entry. -/
theorem witness_DetachByPhase : carried.takes (encodeAttach 4660 (.lane 2 2 0)) ∧
    readAttach (encodeAttach 4660 (.lane 2 2 0)) = some (4660, .lane 2 2 0) ∧
    carried.table.lookup 4660 = some (slot4660, track4660) ∧ track4660.retiring = false ∧ track4660.guarded = false ∧
    track4660.ListLaw ∧ track4660.ChangeLaw ∧ track4660.entryFor (.console 16) = some ⟨.console 16, .joining, false, 0, 0⟩ ∧
    track4660.entryFor (.lane 2 2 0) = some ⟨.lane 2 2 0, .active, false, 8, 5⟩ ∧
    Phase.manner .active = some .active ∧ Phase.isLeaving .active = false ∧
    leaving4660.entryFor (.lane 2 2 0) = some ⟨.lane 2 2 0, .leaving .active, false, 9, 5⟩ :=
  ⟨⟨rfl, by decide⟩, by decide +kernel, by decide +kernel, rfl, rfl, track4660_list, track4660_change, by decide +kernel⟩

theorem witness_RetireLeavesOrFrees : carried.takes (bytes16 4660) ∧ readLabelOnly (bytes16 4660) = some 4660 ∧
    carried.table.lookup 4660 = some (slot4660, track4660) ∧ track4660.retiring = false ∧ track4660.guarded = false ∧
    track4660.pendingSource = none ∧ (∃ e ∈ track4660.entries, e.phase ≠ .joining) ∧
    (holding base (plain 4660 .none [Entry.new (.console 0) false])).table.lookup 4660 =
      some (slot4660, plain 4660 .none [Entry.new (.console 0) false]) ∧
    (∀ e ∈ (plain 4660 .none [Entry.new (.console 0) false]).entries, e.phase = .joining) := ⟨⟨rfl, by decide⟩, by decide +kernel⟩

/-- Clauses: cursors 256, 255 and 0, maxima 1 and 16; a full page and one that is not. -/
theorem witness_SurveyPagesCompose : carried.takes [1, 1, 16, 0, 0, 0, 255] ∧
    readSurvey [1, 1, 16, 0, 0, 0, 255] = some ⟨256, 16, List.replicate 9 .either, none⟩ ∧
    readSurvey [0, 0, 0, 0, 0, 0, 255] = some ⟨0, 1, List.replicate 9 .either, none⟩ ∧
    readSurvey [0, 255, 1, 0x1B, 0, 0x40, 7] = some ⟨255, 1, [.either, .clear, .set, .either, .either, .either, .either,
      .either, .clear], some 7⟩ ∧
    (SurveyRequest.page ⟨0, 1, [], none⟩ carried.table).1.length = 1 ∧ (SurveyRequest.page ⟨0, 2, [], none⟩ carried.table).1.length < 2 :=
  ⟨⟨rfl, by decide⟩, by decide +kernel⟩

theorem witness_PurgeEmptiesTheTable : carried.takes [] ∧ (∀ l, (carried.tx.get l).line = none) := ⟨⟨rfl, by decide⟩, by decide⟩

/-- Clauses: lane 2 whose EMBED group 3 is held; the same lane with nothing held. -/
theorem witness_LaneStagesItsSetting : carried.takes (encodeLane 2 LaneSetting.reset) ∧
    readLane (encodeLane 2 LaneSetting.reset) = some (2, LaneSetting.reset) ∧
    (∃ g : Fin 4, ((carried.tx.get 2).groups.get g).disposition = .embed ∧ (LaneSetting.reset.get g).disposition ≠ .embed ∧
      ∃ c : Fin 4, (carried.table.ownerOf (.lane 2 g c)).isSome) ∧
    (∀ g : Fin 4, ((base.tx.get 2).groups.get g).disposition = .embed → (LaneSetting.reset.get g).disposition ≠ .embed →
      ∀ c : Fin 4, base.table.ownerOf (.lane 2 g c) = none) := ⟨⟨rfl, by decide⟩, by decide +kernel⟩

def houseAt (state : RefState) (counted : Bool) (candidate : Option Format) (count : Nat) : State :=
  { base with ref := { base.ref with state := state, counted := counted, candidate := candidate, count := count } }

/-- The frame in progress runs on, and its end falls exactly at the clock. -/
def atFrameEnd (s : State) : State := { s with now := s.ref.frameStart + max s.ref.lockedPeriod s.ref.frameLength }

/-- Clauses: HOUSE kept; FREE from HOLDOVER and LOCKED, before the frame's end and at it; lane 5 selected in HOLDOVER, from FREE
before the frame's end, and from LOCKED at it. -/
theorem witness_ReferenceSelectsItsSource : base.takes [1, 5, 2] ∧ readReference [0, 0, 2] = some (base.ref.source, .p2) ∧
    readReference [2, 0, 2] = some (.free, .p2) ∧ RefSource.free ≠ base.ref.source ∧
    base.now < base.ref.frameStart + base.ref.frameLength ∧ readReference [1, 5, 2] = some (.lane 5, .p2) ∧
    RefSource.lane 5 ≠ base.ref.source ∧ base.ref.state = .holdover ∧
    (after (.reference [2, 0, 1]) base).ref.state = .free ∧
    (after (.reference [2, 0, 1]) base).now < (after (.reference [2, 0, 1]) base).ref.frameStart + Format.p1.nominal ∧
    (atFrameEnd base).ref.frameStart + (atFrameEnd base).ref.frameLength ≤ (atFrameEnd base).now ∧
    (houseAt .locked true (some .p1) 2).ref.state = .locked ∧
    (atFrameEnd (houseAt .locked true (some .p1) 2)).ref.frameStart + (houseAt .locked true (some .p1) 2).ref.lockedPeriod ≤
      (atFrameEnd (houseAt .locked true (some .p1) 2)).now :=
  ⟨⟨rfl, by decide⟩, by decide +kernel⟩

/-- LANE 5 selected, lane 5's receiver SEEKING or LOCKED. -/
def laneAt (state : RefState) (counted : Bool) (candidate : Option Format) (count : Nat) : State := { lane5 with
  ref := { lane5.ref with source := .lane 5, state := state, counted := counted, candidate := candidate, count := count } }

/-- Clauses: another source; HOLDOVER with no frame counted, then a frame of no class, of the first and of the second of its
format; LOCKED, its own class and another. -/
theorem witness_LaneLinesMoveTheReference : lane5.ref.source ≠ .lane 5 ∧ (laneAt .holdover false none 0).resetHeld = false ∧
    (laneAt .holdover false none 0).ref.source = .lane 5 ∧ (laneAt .holdover false none 0).ref.counted = false ∧
    ((laneAt .holdover true none 0).rx.get 5).state ≠ .noSignal ∧ classify 1 7 = none ∧
    classify 1125 (1920 * 1000000) = some .p1 ∧ (laneAt .holdover true none 0).ref.candidate ≠ some .p1 ∧
    (laneAt .holdover true (some .p1) 1).ref.candidate = some .p1 ∧ (laneAt .holdover true (some .p1) 1).ref.count = 1 ∧
    (laneAt .locked true (some .p1) 2).ref.state = .locked ∧
    (laneAt .locked true (some .p1) 2).ref.candidate = some (laneAt .locked true (some .p1) 2).ref.format ∧
    classify 1125 (1920 * 1000000) = some (laneAt .locked true (some .p1) 2).ref.format := by decide +kernel

theorem witness_SharesSpreadTheFrame : 0 < (Plan.of .p2 0).carriage ∧ (1123 : Nat) ≤ (Plan.of .p2 0).carriage ∧
    (1122 : Nat) < (Plan.of .p2 0).carriage ∧ (4 : Nat) < Format.cadence .p2 ∧ (0 : Nat) < Format.cadence .p1 := by decide

/-- The ends of the tolerance are in, one unit beyond is out. -/
theorem witness_ClassingIsUnambiguous : classify 1125 (1920 * 1000500) = some .p1 ∧ classify 1125 (1920 * 1000500 + 1) = none ∧
    classify 1125 (1920 * 999500) = some .p1 ∧ classify 1125 (1920 * 999500 - 1) = none := by decide

theorem witness_RoundingModesRound : (0 : Int) < 1 ∧ (0 : Int) ≤ 0 ∧ |2 * (3 - 2 * Rounding.nearestEven.divide 3 2)| = (2 : Int) := by
  decide

theorem witness_ShapedSamplesLieInRange : track4660.gainNow = 16384 ∧ track4660.inverted = false ∧
    ({ track4660 with inverted := true }).inverted = true ∧ ({ track4660 with gainNow := 65535 }).clips .floor .w24 0x7FFFFF = true ∧
    (0x7FFFFF : Sample).toInt ≠ -8388608 ∧ (0x800000 : Sample).toInt = -8388608 := by decide +kernel

def ramped : Track := { track4660 with ramp := some ⟨0, 16384, 480, 479⟩ }

theorem witness_RampStepsTowardItsTarget : ramped.ramp = some ⟨0, 16384, 480, 479⟩ ∧ 479 < 480 ∧ 479 + 1 = 480 ∧
    track4660.ramp = none ∧ (holding base ramped).resetHeld = false ∧
    (holding base ramped).table.lookup 4660 = some (slot4660, ramped) ∧ base.table.lookup 4660 = none ∧
    carried.table.lookup 4660 = some (slot4660, track4660) := by decide +kernel

/-- Clauses: lag 8, lag 0, and a JOINING entry. -/
theorem witness_DrawTakesTheOldestUndrawn : base.table.owning (.lane 2 2 0) = none ∧
    carried.table.owning (.lane 2 2 0) = some (slot4660, track4660, ⟨.lane 2 2 0, .active, false, 8, 5⟩) ∧
    (track4660.entries.map (·.dest)).Nodup ∧ track4660.keepsLag ⟨.lane 2 2 0, .active, false, 8, 5⟩ = true ∧
    (holding base (plain 4660 (.console 2) [⟨.lane 2 2 0, .active, false, 0, 5⟩])).table.owning (.lane 2 2 0) =
      some (slot4660, plain 4660 (.console 2) [⟨.lane 2 2 0, .active, false, 0, 5⟩], ⟨.lane 2 2 0, .active, false, 0, 5⟩) ∧
    carried.table.owning (.console 16) = some (slot4660, track4660, ⟨.console 16, .joining, false, 0, 0⟩) ∧
    track4660.keepsLag ⟨.console 16, .joining, false, 0, 0⟩ = false := by decide +kernel

theorem witness_ArrivalsRaiseLagAndFill : ofConsole .none = false := rfl

theorem witness_LossAndReturnMoveTheTrack : ofConsole .none = false ∧ ofConsole track4660.cut.source = true ∧
    track4660.cut.sourceLost = true ∧ track4660.cut.gainNow = 0 ∧ track4660.cut.ramp = none ∧
    ∀ src, ofConsole src = true → (State.view { base with console := { base.console with depth := 0 } }) src = some 0 := by
  refine ⟨rfl, rfl, rfl, rfl, rfl, fun src h => ?_⟩
  cases src with
  | none => cases h
  | lane => cases h
  | console n => rfl

def changing : Track := { track4660 with pendingSource := some (.console 4) }
def changed : Track := { changing with entries := changing.entries.map fun e => { e with taken := true } }

/-- Clauses: nothing concerned; RETIRING; LIVE with no pending source; a change not complete, and one complete. -/
theorem witness_SwitchPointLandsChanges : base.view .none = none ∧ (∀ e ∈ track4660.entries, Dest.onLane 0 e.dest = false) ∧
    (∃ e ∈ track4660.entries, Dest.onConsole e.dest = true) ∧ track4660.retiring = false ∧ track4660.pendingSource = none ∧
    ({ leaving4660 with retiring := true }).retiring = true ∧
    (∃ e ∈ leaving4660.entries, Dest.onLane 2 e.dest = true) ∧ leaving4660.pendingSource = none ∧
    changing.pendingSource = some (.console 4) ∧ (∃ e ∈ changing.entries, Dest.onConsole e.dest = true) ∧
    (changing.entries.all (·.taken) = false) ∧ (∀ e ∈ changed.entries, e.taken = true) := by decide +kernel

theorem witness_TableAtASwitchPoint : carried.table.records = carried.table.occupancy ∧
    carried.stagedItems = carried.table.staged ∧ carried.table.holds slot4660 track4660 ∧
    (holding base (plain 7 .none [⟨.console 3, .leaving .active, false, 0, 0⟩])).table.ownerOf (.console 3) = some 7 := by
  refine ⟨by decide +kernel, by decide +kernel, ?_, by decide +kernel⟩
  unfold Table.holds
  decide +kernel

theorem witness_ReferenceFramesBegin : base.resetHeld = false ∧ base.ref.state ≠ .locked ∧ (base.tx.get 0).mode = .fallback ∧
    (base.tx.get 0).line = none ∧ ({ base with ref := { base.ref with state := .locked } } : State).ref.state = .locked ∧
    ((lane5.tx.modify 5 fun x => { x with mode := .follow }).get 5).mode = .follow ∧ (lane5.rx.get 5).state = .locked ∧
    carried.table.Every Track.ListLaw ∧ carried.CountLaw :=
  ⟨rfl, by decide +kernel, by decide +kernel, by decide +kernel, rfl, by decide +kernel, by decide +kernel,
    carried_every track4660_list, by decide +kernel, by decide +kernel⟩

/-- Clauses: another source; the first line; a frame unrecognised, first of its format, second; LOCKED; lost. -/
theorem witness_HouseLinesMoveTheReference :
    (after (.reference [2, 0, 1]) base).ref.source ≠ .house ∧ base.ref.source = .house ∧
    (houseAt .holdover false none 0).ref.counted = false ∧ (houseAt .holdover true none 0).ref.counted = true ∧
    classify 1 7 = none ∧ classify 1125 (1920 * 1000000) = some .p1 ∧ (houseAt .holdover true none 0).ref.candidate ≠ some .p1 ∧
    (houseAt .holdover true (some .p1) 1).ref.candidate = some .p1 ∧ (houseAt .holdover true (some .p1) 1).ref.count = 1 ∧
    (houseAt .locked true (some .p1) 2).ref.state = .locked ∧
    (houseAt .locked true (some .p1) 2).ref.candidate = some (houseAt .locked true (some .p1) 2).ref.format ∧
    (houseAt .locked true (some .p1) 2).ref.present = true ∧ base.ref.present = true := by decide +kernel

/-- Clauses: framed and unframed frames against each link state and framing count. -/
theorem witness_ConsoleFramesMoveTheLink : base.resetHeld = false ∧ (consoleFrame (List.replicate 64 7)).length = 195 ∧
    (consoleFrame (List.replicate 64 7)).take 3 = [0xE1, 0x4B, 0x72] ∧ ¬(List.replicate 195 (0 : Byte)).take 3 = [0xE1, 0x4B, 0x72] ∧
    base.console.up = true ∧ State.reset.console.up = false ∧ State.reset.console.count ≠ 1 ∧
    ({ base.console with count := 1 }).up = true ∧ ({ State.reset.console with count := 1 }).up = false := by decide +kernel

/-- Clauses: each receive state; a SEEKING receiver with no candidate and with one frame counted. -/
theorem witness_LaneLinesMoveTheReceiver : base.resetHeld = false ∧ (base.rx.get 0).state = .noSignal ∧
    ((after (.laneSwitchLine 0 1125 7) base).rx.get 0).state = .seeking ∧
    classify 1125 (1920 * 1000000) = some .p1 ∧ classify 1 7 = none ∧
    ((after (.laneSwitchLine 0 1125 (1920 * 1000000)) (after (.laneSwitchLine 0 1125 7) base)).rx.get 0).candidate = some .p1 ∧
    ((after (.laneSwitchLine 0 1125 (1920 * 1000000)) (after (.laneSwitchLine 0 1125 7) base)).rx.get 0).count = 1 ∧
    (lane5.rx.get 5).state = .locked ∧ (lane5.rx.get 5).format = some .p2 := by decide +kernel

def packet1 : List Byte := buildPacket 0 1 1 .w24 [0, 0, 0, 0]

/-- Clauses: a receiver not LOCKED, line 2; line 3 of a LOCKED one with a packet cut off, of a bad count, not valid, valid of a
group not present and of a present one; the transmitter passing, in FALLBACK, and with a switch line handed on. -/
theorem witness_PacketsArriveOrDamage : lane5.resetHeld = false ∧ (lane5.rx.get 0).state ≠ .locked ∧ (2 : Nat) < 3 ∧
    (lane5.rx.get 5).state = .locked ∧ (3 : Nat) ≤ 3 ∧ search (quietPacket.take 17) = .cutOff (some 3) ∧
    search [0x5A, 0xC3, 4, 0, 5] = .countDamaged 4 ∧
    search quietPacket = .taken ⟨3, 1, 1, List.replicate 12 0, 0xDE⟩ ∧ (lane5.rx.get 5).format = some .p2 ∧
    sumBytes quietPacket % 256 = 0 ∧ sumBytes (quietPacket.take 17 ++ [0xDF]) % 256 ≠ 0 ∧
    ((lane5.rx.get 5).groups.get 2).depth ≤ 16 ∧ ((lane5.rx.get 5).groups.get 2).present = false ∧
    search packet1 = .taken ⟨1, 1, 1, List.replicate 12 0, 0xE0⟩ ∧ sumBytes packet1 % 256 = 0 ∧
    ((lane5.rx.get 5).groups.get 0).present = true ∧ ((lane5.rx.get 5).groups.get 0).depth ≤ 16 ∧
    (lane5.tx.get 5).handed = [] ∧ (lane5.tx.get 5).mode = .fallback ∧
    ((lane5.tx.modify 5 fun x => { x with mode := .follow, passing := true }).get 5).passing = true ∧
    ((after (.laneSwitchLine 5 1125 7) lane5).tx.get 5).handed = [] ++ [⟨none, []⟩] := by decide +kernel

/-- Clauses: nothing handed, no line open; a switch line handed, with a line open. -/
theorem witness_OutgoingFramesBegin : base.resetHeld = false ∧ (base.tx.get 2).handed = [] ∧ (base.tx.get 2).line = none ∧
    ((base.tx.modify 2 fun x => { x with handed := [⟨none, []⟩] }).get 2).handed = ⟨none, []⟩ :: [] ∧
    ((opened []).tx.get 2).line ≠ none ∧ carried.finishLine 2 = carried ∧ (carried.finishLine 2).CountLaw := by
  have same : carried.finishLine 2 = carried := by decide +kernel
  refine ⟨rfl, by decide +kernel, by decide +kernel, by decide +kernel, by decide +kernel, same, ?_⟩
  rw [same]
  exact ⟨by decide +kernel, by decide +kernel⟩

/-- The next line of lane 2 in FALLBACK, on a P1 frame, is line `n` + 1, and a P3 frame of the reference has emitted `k`
instants. -/
def fallbackAt (n k : Nat) : State := { base with
  ref := { base.ref with format := .p3, emitted := k }, tx := base.tx.modify 2 fun x => { x with lines := n } }

/-- Clauses: FOLLOW; FALLBACK with the instant of the next line emitted, the next to emit, and not to come; every line
reached. -/
theorem witness_LinesCarryTheirPackets : base.resetHeld = false ∧ (base.tx.get 2).line = none ∧
    (following.tx.get 2).mode = .follow ∧ (base.tx.get 2).mode = .fallback ∧
    ((fallbackAt 562 0).tx.get 2).lines * ((fallbackAt 562 0).tx.get 2).plan.samples /
      (((fallbackAt 562 0).tx.get 2).plan.carriage + 2) = 959 ∧ (959 : Nat) < (fallbackAt 562 960).ref.emitted ∧
    (fallbackAt 562 959).ref.emitted = 959 ∧ 959 < (fallbackAt 562 959).ref.format.samples (fallbackAt 562 959).ref.phase ∧
    (fallbackAt 562 958).ref.emitted < 959 ∧ 563 * 1920 / 1125 = (fallbackAt 563 960).ref.emitted ∧
    ¬960 < (fallbackAt 563 960).ref.format.samples (fallbackAt 563 960).ref.phase ∧
    ((fallbackAt 1125 0).tx.get 2).plan.carriage + 2 ≤ ((fallbackAt 1125 0).tx.get 2).lines := by decide +kernel

theorem witness_BuiltPacketsReadBack : (4 : Nat) < 5 ∧ 1 ≤ 4 ∧ (List.replicate 16 (524287 : Int)).length = 4 * 4 ∧
    (∀ v ∈ List.replicate 16 (524287 : Int), WordLength.lowest .w20 ≤ v ∧ v ≤ WordLength.highest .w20) ∧
    (List.replicate 64 (-8388608 : Int)).length = 64 ∧
    (∀ v ∈ List.replicate 64 (-8388608 : Int), -8388608 ≤ v ∧ v ≤ 8388607) := by decide +kernel

theorem witness_OccurrencesSetRequests : Attention.reset.threshold = 256 ∧ (256 : Nat) ≤ 256 ∧
    (⟨none, .rising, 0, false, false⟩ : Attention).threshold = 0 ∧ (⟨none, .falling, 0, false, false⟩ : Attention).threshold = 0 := by
  decide

/-! ### Witnesses of the statements about every step -/

theorem carried_map : ∀ d : Fin 192, carried.table.map.get d =
    if d = Dest.index (.lane 2 2 0) ∨ d = Dest.index (.console 16) then some 4660 else none := by decide +kernel

theorem lane_index {d : Dest} (h : d.index = Dest.index (.lane 2 2 0)) : d = .lane 2 2 0 := by
  cases d with
  | lane l g c =>
    obtain ⟨l, _⟩ := l; obtain ⟨g, _⟩ := g; obtain ⟨c, _⟩ := c
    have val : l * 16 + g * 4 + c = 40 := congrArg Fin.val h
    obtain rfl : l = 2 := by omega
    obtain rfl : g = 2 := by omega
    obtain rfl : c = 0 := by omega
    rfl
  | console n =>
    have val : 128 + n.1 = 40 := congrArg Fin.val h
    omega

theorem console_index {d : Dest} (h : d.index = Dest.index (.console 16)) : d = .console 16 := by
  cases d with
  | lane l g c =>
    have val : l.1 * 16 + g.1 * 4 + c.1 = 144 := congrArg Fin.val h
    omega
  | console n =>
    obtain ⟨n, _⟩ := n
    have val : 128 + n = 144 := congrArg Fin.val h
    obtain rfl : n = 16 := by omega
    rfl

theorem carried_owner (d : Dest) : carried.table.ownerOf d =
    if d = .lane 2 2 0 ∨ d = .console 16 then some 4660 else none := by
  unfold Table.ownerOf
  rw [carried_map]
  exact if_congr (or_congr ⟨lane_index, fun h => h ▸ rfl⟩ ⟨console_index, fun h => h ▸ rfl⟩) rfl rfl

theorem carried_sound : carried.table.Sound := by
  refine ⟨carried_every track4660_list, carried_placement, fun d label => ?_⟩
  rw [carried_owner]
  constructor
  · intro h
    split at h
    · next hd =>
      refine ⟨slot4660, track4660, ?_, Option.some.inj h, ?_⟩
      · unfold Table.holds; rw [carried_slots, if_pos rfl]
      · rcases hd with rfl | rfl
        · exact ⟨_, List.mem_cons_self, rfl⟩
        · exact ⟨_, List.mem_cons_of_mem _ List.mem_cons_self, rfl⟩
    · cases h
  · rintro ⟨i, t, held, rfl, e, member, rfl⟩
    obtain ⟨-, rfl⟩ := carried_holds held
    have : e.dest = .lane 2 2 0 ∨ e.dest = .console 16 := by
      rcases List.mem_cons.1 member with rfl | h
      · exact .inl rfl
      · exact .inr (by rw [List.mem_singleton.1 h])
    rw [if_pos this]
    rfl

/-- Clauses: an instant left, its work owed or not; none left. -/
theorem witness_InstantsDrawTheConsoleAndStepRamps : carried.resetHeld = false ∧ carried.ref.owed = false ∧
    carried.ref.emitted < carried.ref.format.samples carried.ref.phase ∧
    (after (.lineReached 2 ⟨0, none⟩) carried).ref.owed = true ∧
    ({ base.ref with emitted := 1920 }).format.samples ({ base.ref with emitted := 1920 }).phase ≤ 1920 ∧
    carried.table.owning (.console 63) = none ∧
    carried.table.owning (.console 16) = some (slot4660, track4660, ⟨.console 16, .joining, false, 0, 0⟩) ∧
    carried.table.Sound :=
  ⟨rfl, rfl, by decide +kernel, by decide +kernel, by decide +kernel, by decide +kernel, by decide +kernel, carried_sound⟩

/-- One command waits, on a table that is sound. -/
def waiting : State := { carried with pending := [.retire (bytes16 4660)] }

theorem witness_StepsKeepTheTableSound : waiting.table.Sound ∧ ∃ t, step waiting = .next t := ⟨carried_sound, _, rfl⟩

theorem witness_StepsKeepTheTrackLaws : (∃ t, step waiting = .next t) ∧ waiting.table.Every Track.LagLaw ∧
    waiting.table.Every Track.GainLaw ∧ waiting.table.Every Track.ChangeLaw ∧ waiting.table.Every Track.RetiringLaw := by
  refine ⟨⟨_, rfl⟩, carried_every ?_, carried_every ?_, carried_every track4660_change, carried_every (fun h => by cases h)⟩
  · unfold Track.LagLaw; decide +kernel
  · exact ⟨(fun r h => by cases h), fun _ => rfl, (fun h => by cases h)⟩

theorem witness_StepsKeepCountsAndEmbedding : waiting.table.Sound ∧ (∃ t, step waiting = .next t) ∧ waiting.CountLaw ∧
    waiting.EmbedLaw := by
  refine ⟨carried_sound, ⟨_, rfl⟩, ⟨by decide +kernel, by decide +kernel⟩, fun i t held => ?_⟩
  rw [(carried_holds held).2]
  decide +kernel

theorem witness_StepsKeepTheBlocksInBounds : (∃ t, step waiting = .next t) ∧ waiting.console.Sound ∧ waiting.ref.Sound ∧
    waiting.SettingsLaw ∧ waiting.port.Sound := by
  refine ⟨⟨_, rfl⟩, ?_, ?_, ?_, ?_⟩
  · unfold ConsoleRx.Sound; decide +kernel
  · unfold RefUnit.Sound; decide +kernel
  · unfold State.SettingsLaw; decide +kernel
  · exact ⟨(fun code n params h => by cases h), by decide, by decide, fun _ => by decide⟩

/-- Every lane receiver as it leaves reset keeps its bounds. -/
theorem witness_lanes_sound : waiting.LanesSound := by
  have each : ∀ l, waiting.rx.get l = LaneRx.reset := by decide +kernel
  intro l
  rw [each l]
  refine ⟨(fun _ => by decide), (fun h => by cases h), by decide, (fun _ => by decide), (fun f p h => by cases h), ?_⟩
  decide +kernel

end Sys2Proof.Tests
end

section
/-! Picture formats, the classing of frames and the cadence (spec 01): O37 and O35. -/

namespace Sys2Proof.Machine

/-! ### Classing (R2) -/

theorem Format.mem_all (f : Format) : f ∈ Format.all := by cases f <;> decide

/-- Within 500 parts per million, ends included (R2; log 4). -/
theorem Format.inTolerance_iff (f : Format) (period : Nat) : f.inTolerance period = true ↔
    1000000 * period ≤ f.nominal * 1000500 ∧ f.nominal * 999500 ≤ 1000000 * period := by
  simp only [Format.inTolerance, Bool.and_eq_true, decide_eq_true_eq]
  omega

/-- The nominal periods of two formats of one line count lie more than both tolerances apart. -/
theorem Format.nominal_apart {f g : Format} (lines : f.lines = g.lines) (ne : f ≠ g) :
    f.nominal * 1000500 < g.nominal * 999500 ∨ g.nominal * 1000500 < f.nominal * 999500 := by
  revert lines ne
  cases f <;> cases g <;> decide

/-- So no period lies in the tolerance of both. -/
theorem Format.eq_of_inTolerance {f g : Format} {period : Nat} (lines : f.lines = g.lines)
    (hf : f.inTolerance period = true) (hg : g.inTolerance period = true) : f = g := by
  rw [Format.inTolerance_iff] at hf hg
  by_contra ne
  have := Format.nominal_apart lines ne
  omega

/-- The class of a frame matches it. -/
theorem matches_of_classify {lines period : Nat} {f : Format} (h : classify lines period = some f) :
    f.lines = lines ∧ f.inTolerance period = true := by
  unfold classify at h
  simpa using List.find?_some h

/-- A frame is of a format exactly when its line count and its period match: the first match in the order of the codes
is the only one. -/
theorem classify_eq_some_iff (lines period : Nat) (f : Format) :
    classify lines period = some f ↔ f.lines = lines ∧ f.inTolerance period = true := by
  refine ⟨matches_of_classify, fun ⟨hl, ht⟩ => ?_⟩
  cases h : classify lines period with
  | none =>
    unfold classify at h
    exact absurd (by simp [hl, ht]) (List.find?_eq_none.1 h f f.mem_all)
  | some g =>
    obtain ⟨gl, gt⟩ := matches_of_classify h
    rw [Format.eq_of_inTolerance (gl.trans hl.symm) gt ht]

/-- Settles O37: the class is unique since tolerance ranges of one line count lie apart. -/
theorem classingIsUnambiguous : Obligations.ClassingIsUnambiguous := by
  intro lines period f
  rw [classify_eq_some_iff, Format.inTolerance_iff, eq_comm]

/-! ### Shares (R6, R7, R11, R12) -/

theorem Plan.share_beyond {plan : Plan} {j : Nat} (h : plan.carriage ≤ j) : plan.share j = 0 := by
  simp [Plan.share, Nat.not_lt.2 h]

theorem Plan.cumulative_succ (plan : Plan) {j : Nat} (h : j < plan.carriage) :
    plan.cumulative (j + 1) = plan.cumulative j + plan.share j := by
  have mono : plan.cumulative j ≤ plan.cumulative (j + 1) :=
    Nat.div_le_div_right (Nat.mul_le_mul_right _ (Nat.le_succ j))
  simp only [Plan.share, h, if_true]
  omega

/-- The first lines together carry the cumulative count: the shares telescope (R11). -/
theorem Plan.sum_share (plan : Plan) {J : Nat} (h : J ≤ plan.carriage) :
    ((List.range J).map plan.share).sum = plan.cumulative J := by
  induction J with
  | zero => simp [Plan.cumulative]
  | succ J ih =>
    rw [List.range_succ, List.map_append, List.sum_append, ih (Nat.le_of_succ_le h), plan.cumulative_succ h]
    simp

/-- A line carries the whole part of S / M, and one more exactly where the remainders of the lines before it and of its
own part reach M together. -/
theorem Plan.share_eq (plan : Plan) {j : Nat} (h : j < plan.carriage) : plan.share j =
    plan.samples / plan.carriage +
      if plan.carriage ≤ j * plan.samples % plan.carriage + plan.samples % plan.carriage then 1 else 0 := by
  have next := plan.cumulative_succ h
  rw [Plan.cumulative, Nat.succ_mul, Nat.add_div (Nat.zero_lt_of_lt h), ← Plan.cumulative] at next
  omega

theorem Plan.share_eq_or (plan : Plan) {j : Nat} (h : j < plan.carriage) :
    plan.share j = plan.samples / plan.carriage ∨ plan.share j = plan.samples / plan.carriage + 1 := by
  rw [plan.share_eq h]
  split <;> simp

/-- Where every number of a list is `q` or `q` + 1, the sum counts those that are `q` + 1. -/
theorem sum_eq_mul_add_countP (f : Nat → Nat) (q : Nat) (xs : List Nat) (h : ∀ x ∈ xs, f x = q ∨ f x = q + 1) :
    (xs.map f).sum = xs.length * q + xs.countP (fun x => f x = q + 1) := by
  induction xs with
  | nil => simp
  | cons x xs ih =>
    have rest := ih fun y hy => h y (List.mem_cons_of_mem x hy)
    rw [List.map_cons, List.sum_cons, rest, List.length_cons, Nat.succ_mul]
    rcases h x List.mem_cons_self with hx | hx <;> simp [hx] <;> omega

theorem Plan.sum_share_all {plan : Plan} (h : 0 < plan.carriage) :
    ((List.range plan.carriage).map plan.share).sum = plan.samples := by
  rw [plan.sum_share (Nat.le_refl _), Plan.cumulative, Nat.mul_div_cancel_left _ h]

theorem Plan.countP_share_one_more {plan : Plan} (h : 0 < plan.carriage) :
    (List.range plan.carriage).countP (fun j => plan.share j = plan.samples / plan.carriage + 1) =
      plan.samples - plan.carriage * (plan.samples / plan.carriage) := by
  have total := sum_eq_mul_add_countP plan.share (plan.samples / plan.carriage) (List.range plan.carriage)
    fun j hj => plan.share_eq_or (List.mem_range.1 hj)
  rw [Plan.sum_share_all h, List.length_range] at total
  omega

/-! ### The six formats (R1, R4, R5, R14) -/

/-- In every frame of the six formats the whole part of S / M is at most 1. -/
theorem Format.samples_div_carriage (f : Format) : ∀ p < f.cadence, f.samples p / f.carriage ≤ 1 := by
  cases f <;> decide

theorem Plan.share_of_le (f : Format) {p : Nat} (j : Nat) (h : p < f.cadence) : (Plan.of f p).share j ≤ 2 := by
  by_cases hj : j < (Plan.of f p).carriage
  · have whole : (Plan.of f p).samples / (Plan.of f p).carriage ≤ 1 := f.samples_div_carriage p h
    have := (Plan.of f p).share_eq_or hj
    omega
  · rw [Plan.share_beyond (Nat.not_lt.1 hj)]
    omega

theorem Format.successor_lt (f : Format) (p : Nat) : f.successor p < f.cadence :=
  Nat.mod_lt _ (by cases f <;> decide)

/-- Q consecutive frames carry C samples, from whatever phase they begin (R14). -/
theorem Format.sum_samples_cycle (f : Format) :
    ∀ p < f.cadence, ((List.range f.cadence).map fun i => f.samples ((p + i) % f.cadence)).sum = f.numerator := by
  cases f <;> decide

/-- Settles O35: the shares telescope, each is S / M rounded down or one more, and the six formats are checked one by
one. -/
theorem sharesSpreadTheFrame : Obligations.SharesSpreadTheFrame := by
  refine ⟨fun plan h => ⟨fun J => plan.sum_share, Plan.sum_share_all h, fun j => plan.share_eq_or,
    Plan.countP_share_one_more h, fun j => Plan.share_beyond, fun f p j => Plan.share_of_le f j⟩, by decide, by decide,
    fun f p h => ⟨f.successor_lt p, f.sum_samples_cycle p h⟩⟩

end Sys2Proof.Machine
end

section
/-! Draws and the lines they fill (spec 06 and 08). What draws leave unchanged, what is left of a packet, what a line
drawn whole carries. -/

namespace Sys2Proof.Machine

/-! ### What draws change -/

theorem Attention.report_report (a : Attention) (o : Occurrence) : (a.report o).report o = a.report o := by
  by_cases chosen : a.selectorA = some o <;> simp [Attention.report, chosen]

/-- Two reports of one kind are one, of either. -/
theorem Attention.reportIf_reportIf (a : Attention) (b c : Bool) (o : Occurrence) :
    (a.reportIf b o).reportIf c o = a.reportIf (b || c) o := by
  cases b with
  | false => rfl
  | true =>
    cases c with
    | false => rfl
    | true => exact a.report_report o

/-- Only records have changed, and SLIP may have been reported: all that draws and arrivals do outside their own block. -/
def State.SlipsOnly (s t : State) : Prop :=
  ∃ slips : Bool, t = { s with
    table := { s.table with slots := t.table.slots }, attn := s.attn.reportIf slips .slip }

theorem State.SlipsOnly.refl (s : State) : s.SlipsOnly s := ⟨false, rfl⟩

theorem State.SlipsOnly.trans {s t u : State} (h : s.SlipsOnly t) (k : t.SlipsOnly u) : s.SlipsOnly u := by
  obtain ⟨a, ht⟩ := h
  obtain ⟨b, hu⟩ := k
  refine ⟨a || b, ?_⟩
  rw [← Attention.reportIf_reportIf]
  rw [ht] at hu
  exact hu

theorem State.SlipsOnly.rx {s t : State} (h : s.SlipsOnly t) : t.rx = s.rx := by obtain ⟨_, e⟩ := h; rw [e]
theorem State.SlipsOnly.tx {s t : State} (h : s.SlipsOnly t) : t.tx = s.tx := by obtain ⟨_, e⟩ := h; rw [e]
theorem State.SlipsOnly.map {s t : State} (h : s.SlipsOnly t) : t.table.map = s.table.map := by obtain ⟨_, e⟩ := h; rw [e]

theorem State.slipsOnly_draw (s : State) (d : Dest) (w : WordLength) : s.SlipsOnly (s.draw d w).2 := by
  unfold State.draw
  split
  · exact .refl s
  · exact ⟨_, rfl⟩

theorem State.slipsOnly_draws (s : State) (w : WordLength) (ds : List Dest) : s.SlipsOnly (s.draws w ds).2 := by
  induction ds generalizing s with
  | nil => exact .refl s
  | cons d ds ih => exact (s.slipsOnly_draw d w).trans (ih _)

theorem State.slipsOnly_drawPackets (s : State) (l : Fin 8) (ps : List OpenPacket) :
    s.SlipsOnly (s.drawPackets l ps).2 := by
  induction ps generalizing s with
  | nil => exact .refl s
  | cons p ps ih => exact (s.slipsOnly_draws ..).trans (ih _)

/-! ### Transmitters have no part in a draw -/

theorem State.draw_setTx (s : State) (l : Fin 8) (x : LaneTx) (d : Dest) (w : WordLength) :
    (s.setTx l x).draw d w = ((s.draw d w).1, (s.draw d w).2.setTx l x) := by
  unfold State.draw
  rw [State.setTx_table]
  cases s.table.owning d <;> rfl

theorem State.draws_setTx (s : State) (l : Fin 8) (x : LaneTx) (w : WordLength) (ds : List Dest) :
    (s.setTx l x).draws w ds = ((s.draws w ds).1, (s.draws w ds).2.setTx l x) := by
  induction ds generalizing s with
  | nil => rfl
  | cons d ds ih => simp only [State.draws, State.draw_setTx, ih]

theorem State.drawPackets_setTx (s : State) (l m : Fin 8) (x : LaneTx) (ps : List OpenPacket) :
    (s.setTx l x).drawPackets m ps = ((s.drawPackets m ps).1, (s.drawPackets m ps).2.setTx l x) := by
  induction ps generalizing s with
  | nil => rfl
  | cons p ps ih => simp only [State.drawPackets, State.drawLeft, State.draws_setTx, ih]

/-! ### The values of draws (R64, R131, R144) -/

theorem WordLength.limit_mem (w : WordLength) (v : Int) : w.lowest ≤ w.limit v ∧ w.limit v ≤ w.highest := by
  have : w.lowest ≤ w.highest := by cases w <;> decide
  unfold WordLength.limit
  omega

theorem State.draw_unowned {s : State} {d : Dest} (h : s.table.ownerOf d = none) (w : WordLength) :
    s.draw d w = (0, s) := by
  have : s.table.owning d = none := by simp [Table.owning, h]
  simp [State.draw, this]

/-- A drawn value lies in the range of its word length (R131); a destination with no owner yields 0. -/
theorem State.draw_mem (s : State) (d : Dest) (w : WordLength) :
    w.lowest ≤ (s.draw d w).1 ∧ (s.draw d w).1 ≤ w.highest := by
  unfold State.draw
  split
  · show w.lowest ≤ 0 ∧ 0 ≤ w.highest
    cases w <;> decide
  · exact w.limit_mem _

/-- The draw at a place of a list of draws is made from what the draws before it left. -/
theorem State.draws_getElem? (s : State) (w : WordLength) (ds : List Dest) (i : Nat) (d : Dest) (h : ds[i]? = some d) :
    (s.draws w ds).1[i]? = some ((s.draws w (ds.take i)).2.draw d w).1 := by
  induction ds generalizing s i with
  | nil => simp at h
  | cons e ds ih =>
    cases i with
    | zero => cases h; rfl
    | succ i => exact ih (s.draw e w).2 i h

/-! ### What is left of a packet (R133, R144; log 20) -/

/-- The channels of one sample set, each at most once. -/
theorem countP_filter_channels (q : Fin 4 → Bool) (c : Fin 4) :
    ([0, 1, 2, 3].filter q).countP (· = c) = if q c then 1 else 0 := by
  rw [List.countP_filter]
  fin_cases c <;> simp [List.countP_cons]

theorem sum_range_ite_le (n k : Nat) : ((List.range k).map fun i => if n ≤ i then 1 else 0).sum = k - n := by
  induction k with
  | zero => simp
  | succ k ih =>
    rw [List.range_succ, List.map_append, List.sum_append, ih]
    simp only [List.map_cons, List.map_nil, List.sum_cons, List.sum_nil]
    split <;> omega

/-- Of each channel as many draws are left as it has not made. -/
theorem OpenPacket.countP_left (p : OpenPacket) (c : Fin 4) :
    p.left.countP (· = c) = p.sets - p.drawn.countP (fun x => x.1 = c) := by
  rw [← sum_range_ite_le, OpenPacket.left, List.countP_flatMap]
  congr 1
  refine List.map_congr_left fun i _ => ?_
  rw [Function.comp_apply, countP_filter_channels]
  simp

/-- A packet of which every channel has made its draws has none left. -/
theorem OpenPacket.left_eq_nil {p : OpenPacket} (h : ∀ c, p.sets ≤ p.drawn.countP (fun x => x.1 = c)) : p.left = [] := by
  simp only [OpenPacket.left, List.flatMap_eq_nil_iff, List.mem_range, List.filter_eq_nil_iff, decide_eq_true_eq]
  intro i hi c _
  exact Nat.not_le.2 (Nat.lt_of_lt_of_le hi (h c))

theorem State.drawLeft_left (s : State) (l : Fin 8) (p : OpenPacket) : (s.drawLeft l p).1.left = [] := by
  apply OpenPacket.left_eq_nil
  intro c
  have lengths : p.left.length ≤ (s.draws p.word (p.left.map (Dest.lane l p.group))).1.length := by
    rw [State.length_draws, List.length_map]
  have channels := congrArg (List.countP (· = c)) (List.map_fst_zip lengths)
  rw [List.countP_map, p.countP_left] at channels
  simp only [Function.comp_def] at channels
  simp only [State.drawLeft, List.countP_append, channels]
  omega

theorem State.drawPackets_left (s : State) (l : Fin 8) (ps : List OpenPacket) :
    ∀ p ∈ (s.drawPackets l ps).1, p.left = [] := by
  induction ps generalizing s with
  | nil => simp [State.drawPackets]
  | cons p ps ih =>
    intro q hq
    rcases List.mem_cons.1 hq with rfl | hq
    · exact s.drawLeft_left l p
    · exact ih _ q hq

/-- An open line of which all that is left is drawn is whole, its blanking filled (R142). -/
theorem State.goOnLine_whole {s : State} {l : Fin 8} {line : OpenLine} (h : (s.tx.get l).line = some line) :
    s.goOnLine l none = (s.drawPackets l line.packets).2.setTx l { s.tx.get l with
      line := none
      blanking := { line with packets := (s.drawPackets l line.packets).1 }.blanking (s.tx.get l).phase } := by
  have all : (s.drawPackets l line.packets).1.all (fun p => p.left.isEmpty) = true :=
    List.all_eq_true.2 fun p hp => List.isEmpty_iff.2 (s.drawPackets_left l _ p hp)
  unfold State.goOnLine
  rw [h]
  exact congrArg (State.setTx _ l) (LaneTx.withLine_whole _ all)

/-! ### Packets drawn whole (R144, R145) -/

/-- A packet just begun has `k` sets of all four channels left. -/
theorem OpenPacket.left_fresh (g : Fin 4) (w : WordLength) (k : Nat) :
    OpenPacket.left ⟨g, w, k, []⟩ = (List.replicate k [0, 1, 2, 3]).flatten := by
  simp [OpenPacket.left, List.flatMap_def, List.map_const']

/-- Their destinations are those of the packet, in its order. -/
theorem map_channels_eq_packetDests (l : Fin 8) (g : Fin 4) (k : Nat) :
    (List.replicate k [0, 1, 2, 3]).flatten.map (Dest.lane l g) = packetDests l g k := by
  simp [packetDests, List.map_flatten]

/-- Values drawn set by set are the packet's samples in their order. -/
theorem OpenPacket.values_fresh (g : Fin 4) (w : WordLength) (k : Nat) (vs : List Int) (h : vs.length = 4 * k) :
    OpenPacket.values ⟨g, w, k, (List.replicate k [0, 1, 2, 3]).flatten.zip vs⟩ = vs := by
  induction k generalizing vs with
  | zero => simp [OpenPacket.values, List.length_eq_zero_iff.1 h]
  | succ k ih =>
    match vs, h with
    | a :: b :: c :: d :: vs, h =>
      have rest := ih vs (by simp only [List.length_cons] at h; omega)
      simp only [OpenPacket.values] at rest
      simpa [OpenPacket.values, List.replicate_succ, List.range_succ_eq_map, List.flatMap_map] using rest

/-- The packet that one group begins on a line of `k` sample sets. -/
def LaneTx.freshPacket (tx : LaneTx) (k : Nat) (g : Fin 4) : OpenPacket := ⟨g, (tx.groups.get g).word, k, []⟩

/-- The packets begun on a line are those of its EMBED groups, in group order (R142). -/
theorem LaneTx.packetsOf_eq (tx : LaneTx) (k : Nat) : tx.packetsOf k =
    ([0, 1, 2, 3].filter fun g => (tx.groups.get g).disposition = .embed).map (tx.freshPacket k) := rfl

/-- A packet just begun and drawn whole holds the draws of its destinations in the packet's order. -/
theorem State.drawLeft_fresh (s : State) (l : Fin 8) (tx : LaneTx) (k : Nat) (g : Fin 4) :
    let word := (tx.groups.get g).word
    let drawn := s.draws word (packetDests l g k)
    s.drawLeft l (tx.freshPacket k g) =
      (⟨g, word, k, (List.replicate k [0, 1, 2, 3]).flatten.zip drawn.1⟩, drawn.2) := by
  simp only [State.drawLeft, LaneTx.freshPacket, OpenPacket.left_fresh, map_channels_eq_packetDests, List.nil_append]

theorem length_packetDests (l : Fin 8) (g : Fin 4) (k : Nat) : (packetDests l g k).length = 4 * k := by
  simp [packetDests, Nat.mul_comm]

/-- Packets just begun and drawn whole are what the groups build with nothing between their draws. -/
theorem State.drawPackets_fresh (s : State) (l : Fin 8) (k : Nat) (gs : List (Fin 4)) :
    let tx := s.tx.get l
    (s.drawPackets l (gs.map (tx.freshPacket k))).2 = (s.buildGroups l k gs).2 ∧
    (s.drawPackets l (gs.map (tx.freshPacket k))).1.map (fun p => buildPacket p.group tx.phase p.sets p.word p.values) =
      (s.buildGroups l k gs).1 := by
  induction gs generalizing s with
  | nil => exact ⟨rfl, rfl⟩
  | cons g gs ih =>
    have rest := ih (s.draws ((s.tx.get l).groups.get g).word (packetDests l g k)).2
    rw [(s.slipsOnly_draws ..).tx] at rest
    obtain ⟨state, packets⟩ := rest
    simp only [List.map_cons, State.drawPackets, State.drawLeft_fresh, State.buildGroups, state, packets, true_and]
    rw [OpenPacket.values_fresh _ _ _ _ (by rw [State.length_draws, length_packetDests])]

theorem State.length_buildGroups (s : State) (l : Fin 8) (k : Nat) (gs : List (Fin 4)) :
    (s.buildGroups l k gs).1.length = gs.length := by
  induction gs generalizing s with
  | nil => rfl
  | cons g gs ih => simp [State.buildGroups, ih]

/-- Each group builds its packet from the draws of its destinations, made as the groups before it left the part. -/
theorem State.buildGroups_getElem? (s : State) (l : Fin 8) (k : Nat) (gs : List (Fin 4)) (j : Nat) (g : Fin 4)
    (h : gs[j]? = some g) :
    let word := ((s.tx.get l).groups.get g).word
    let drawn := (s.buildGroups l k (gs.take j)).2.draws word (packetDests l g k)
    (s.buildGroups l k gs).1[j]? = some (buildPacket g (s.tx.get l).phase k word drawn.1) ∧
    (s.buildGroups l k (gs.take (j + 1))).2 = drawn.2 := by
  induction gs generalizing s j with
  | nil => simp at h
  | cons e gs ih =>
    cases j with
    | zero => cases h; exact ⟨rfl, rfl⟩
    | succ j =>
      have rest := ih (s.draws ((s.tx.get l).groups.get e).word (packetDests l e k)).2 j h
      rw [(s.slipsOnly_draws ..).tx] at rest
      exact rest

/-! ### A line reached and drawn whole (R142 to R145; log 20) -/

/-- The sample sets that each EMBED group draws on the next line (R8, R12). -/
def LaneTx.nextShare (tx : LaneTx) : Nat := if tx.lines < 2 then 0 else tx.plan.share (tx.lines - 2)

/-- The packets that the next line passes, as the carrier of arriving line `n` (R143; log 9). -/
def LaneTx.nextPassed (tx : LaneTx) (n : Nat) : List (List Byte) :=
  if tx.mode = .fallback ∨ tx.lines < 2 then [] else
    (tx.store.filter fun p => p.line = n && (tx.groups.get p.group).disposition = .pass).map (·.bytes)

/-- What the EMBED groups build on the next line, and the part after their draws. -/
def State.buildLine (s : State) (l : Fin 8) (tx : LaneTx) : List (List Byte) × State :=
  if tx.nextShare = 0 then ([], s)
  else s.buildGroups l tx.nextShare ([0, 1, 2, 3].filter fun g : Fin 4 => (tx.groups.get g).disposition = .embed)

/-- The part after the next line, `tx` being the lane's transmitter before it, has been reached and drawn whole. -/
def State.wholeLine (s : State) (l : Fin 8) (tx : LaneTx) (flat : Bool) (n : Nat) : State :=
  let built := s.buildLine l tx
  { built.2 with tx := s.tx.set l { tx with
    lines := tx.lines + 1, flat := flat, store := tx.store.filter fun p => p.line ≠ n
    blanking := built.1.flatten ++ fitPackets (216 - built.1.flatten.length) (tx.nextPassed n) } }

theorem LaneTx.openLine_eq (tx : LaneTx) (n : Nat) : tx.openLine (tx.lines + 1) n =
    ⟨if tx.nextShare = 0 then [] else tx.packetsOf tx.nextShare, tx.nextPassed n⟩ := by
  by_cases early : tx.lines < 2
  · have : tx.lines + 1 < 3 := by omega
    simp [LaneTx.openLine, LaneTx.nextShare, LaneTx.nextPassed, early, this]
  · have : ¬tx.lines + 1 < 3 := by omega
    have place : tx.lines + 1 - 3 = tx.lines - 2 := by omega
    cases mode : tx.mode <;>
      simp [LaneTx.openLine, LaneTx.nextShare, LaneTx.nextPassed, LaneTx.passed, early, this, place, mode]

/-- The open line's packets, all drawn, are what `buildLine` builds. -/
theorem State.drawPackets_openLine (s : State) (l : Fin 8) (n : Nat) :
    let tx := s.tx.get l
    let line := tx.openLine (tx.lines + 1) n
    (s.drawPackets l line.packets).2 = (s.buildLine l tx).2 ∧
    (s.drawPackets l line.packets).1.map (fun p => buildPacket p.group tx.phase p.sets p.word p.values) =
      (s.buildLine l tx).1 := by
  simp only [LaneTx.openLine_eq, State.buildLine]
  split
  · exact ⟨rfl, rfl⟩
  · rw [LaneTx.packetsOf_eq]
    exact s.drawPackets_fresh l _ _

theorem State.buildLine_tx (s : State) (l : Fin 8) (tx : LaneTx) : (s.buildLine l tx).2.tx = s.tx := by
  unfold State.buildLine
  split
  · rfl
  · exact (s.tableOnly_buildGroups ..).tx

/-- A line reached where none is open, all its draws falling in the event, carries the built packets of the EMBED groups
and then the passed ones that fit (R142). -/
theorem State.reachLine_whole {s : State} {l : Fin 8} (h : (s.tx.get l).line = none) (n : Nat) (flat : Bool) :
    s.reachLine l ⟨n, none⟩ flat = s.wholeLine l (s.tx.get l) flat n := by
  obtain ⟨state, packets⟩ := s.drawPackets_openLine l n
  have reached : ((s.setTx l ((s.tx.get l).reached n flat)).tx.get l) = (s.tx.get l).reached n flat := by simp
  have line : ((s.setTx l ((s.tx.get l).reached n flat)).tx.get l).line =
      some ((s.tx.get l).openLine ((s.tx.get l).lines + 1) n) := by rw [reached, LaneTx.reached_line]
  unfold State.reachLine
  rw [State.goOnLine_whole line, reached, State.drawPackets_setTx, state]
  simp only [OpenLine.blanking, List.flatMap_def, LaneTx.reached_phase, packets, State.wholeLine, State.setTx,
    State.buildLine_tx, Bank.set_set]
  rw [LaneTx.openLine_eq]
  simp only [LaneTx.reached, ← h]
  rfl

/-! ### The lines of a FALLBACK frame (R139; log 10) -/

section
variable {s : State} {l : Fin 8}

/-- Instants of the frame in progress are left while fewer than its samples have been emitted (R27). -/
theorem RefUnit.instantLeft_iff (r : RefUnit) : r.instantLeft = true ↔ r.emitted < r.format.samples r.phase := by
  simp [RefUnit.instantLeft]

/-- A line whose instant has been emitted is reached, flat. -/
theorem State.reachFallbackLine_emitted (draws : Option (List (Fin 4 × Fin 4))) (n : Nat)
    (lines : (s.tx.get l).lines < (s.tx.get l).plan.carriage + 2) (emitted : (s.tx.get l).lineInstant < s.ref.emitted) :
    s.reachFallbackLine l ⟨n, draws⟩ = s.reachLine l ⟨0, draws⟩ true := by
  simp [State.reachFallbackLine, Nat.not_le.2 lines, emitted]

/-- A line whose instant is the next to emit is reached together with it. -/
theorem State.reachFallbackLine_next (draws : Option (List (Fin 4 × Fin 4))) (n : Nat)
    (lines : (s.tx.get l).lines < (s.tx.get l).plan.carriage + 2) (next : (s.tx.get l).lineInstant = s.ref.emitted)
    (left : s.ref.instantLeft = true) :
    s.reachFallbackLine l ⟨n, draws⟩ = s.completeInstant.emitInstant.reachLine l ⟨0, draws⟩ true := by
  simp [State.reachFallbackLine, Nat.not_le.2 lines, next, left]

/-- Before its instant, with no instant left and after the frame's last line, no line is reached. -/
theorem State.reachFallbackLine_none (line : LineReach)
    (h : (s.tx.get l).plan.carriage + 2 ≤ (s.tx.get l).lines ∨ s.ref.emitted < (s.tx.get l).lineInstant ∨
      (s.tx.get l).lineInstant = s.ref.emitted ∧ ¬s.ref.instantLeft = true) :
    s.reachFallbackLine l line = s := by
  unfold State.reachFallbackLine
  dsimp only
  split
  · rfl
  · next lines =>
    rcases h with h | h | ⟨next, left⟩
    · exact absurd h lines
    · simp [Nat.not_lt.2 (Nat.le_of_lt h), Nat.ne_of_gt h]
    · simp [next, left]

/-- The work of an instant, done where it is owed, changes neither the transmitters nor the clock, and of the reference
unit only that it is owed. -/
theorem State.completeInstant_tx (s : State) : s.completeInstant.tx = s.tx := by
  unfold State.completeInstant
  split
  · exact (State.instantWork_frame ..).tx
  · rfl

theorem State.completeInstant_now (s : State) : s.completeInstant.now = s.now := by
  unfold State.completeInstant
  split
  · exact (State.instantWork_frame ..).now
  · rfl

theorem State.completeInstant_ref (s : State) :
    s.completeInstant.ref = { s.ref with owed := s.completeInstant.ref.owed } := by
  unfold State.completeInstant
  split
  · have ref : (s.workInstant 0).ref = { s.ref with owed := false } := (State.instantWork_frame ..).ref
    rw [ref]
  · rfl

/-- The next instant emitted, with the work owed for the one before it done first. -/
theorem State.emitInstant_completeInstant (s : State) : s.completeInstant.emitInstant = { s.completeInstant with
    now := max s.now (s.ref.instantDue s.ref.emitted)
    ref := { s.ref with emitted := s.ref.emitted + 1, owed := true } } := by
  unfold State.emitInstant
  rw [State.completeInstant_ref]
  unfold State.reach State.withRef
  rw [State.completeInstant_now]
  rfl
end

/-! ### The rows LINE_REACHED and FLAT_LINE_REACHED -/

theorem exec_lineReached (l : Fin 8) (line : LineReach) (s : State) :
    exec (.lineReached l line) s = execLineReached l line s := rfl

theorem exec_flatLineReached (l : Fin 8) (line : LineReach) (s : State) :
    exec (.flatLineReached l line) s = execFlatLineReached l line s := rfl

section
variable {s : State} {l : Fin 8} (released : s.resetHeld = false)
include released

theorem exec_lineReached_follow (closed : (s.tx.get l).line = none) (mode : (s.tx.get l).mode = .follow) (n : Nat) :
    exec (.lineReached l ⟨n, none⟩) s = .next (s.wholeLine l (s.tx.get l) false n) := by
  rw [exec_lineReached, execLineReached, State.running_released released]
  simp [closed, mode, State.reachLine_whole closed]

theorem exec_flatLineReached_follow (closed : (s.tx.get l).line = none) (mode : (s.tx.get l).mode = .follow) (n : Nat) :
    exec (.flatLineReached l ⟨n, none⟩) s = .next (s.wholeLine l (s.tx.get l) true n) := by
  rw [exec_flatLineReached, execFlatLineReached, State.running_released released]
  simp [closed, mode, State.reachLine_whole closed]

theorem exec_flatLineReached_fallback (mode : (s.tx.get l).mode = .fallback) (line : LineReach) :
    exec (.flatLineReached l line) s = .next s := by
  rw [exec_flatLineReached, execFlatLineReached, State.running_released released]
  simp [mode]

theorem exec_lineReached_fallback (closed : (s.tx.get l).line = none) (mode : (s.tx.get l).mode = .fallback)
    (line : LineReach) : exec (.lineReached l line) s = .next (s.reachFallbackLine l line) := by
  rw [exec_lineReached, execLineReached, State.running_released released]
  simp [closed, mode]

/-- Together with its instant a line is drawn whole from the part as the instant leaves it. -/
theorem exec_lineReached_next (closed : (s.tx.get l).line = none) (mode : (s.tx.get l).mode = .fallback) (n : Nat)
    (lines : (s.tx.get l).lines < (s.tx.get l).plan.carriage + 2) (next : (s.tx.get l).lineInstant = s.ref.emitted)
    (left : s.ref.instantLeft = true) :
    exec (.lineReached l ⟨n, none⟩) s = .next (State.wholeLine { s.completeInstant with
      now := max s.now (s.ref.instantDue s.ref.emitted)
      ref := { s.ref with emitted := s.ref.emitted + 1, owed := true } } l (s.tx.get l) true 0) := by
  have tx : s.completeInstant.emitInstant.tx = s.tx := s.completeInstant_tx
  rw [exec_lineReached_fallback released closed mode, State.reachFallbackLine_next none n lines next left,
    State.reachLine_whole (by rw [tx, closed]), tx, State.emitInstant_completeInstant]
end

/-- Settles O53: a line's fresh packets drawn whole are what its groups build, and each row reaches its line by mode and
instant. -/
theorem linesCarryTheirPackets : Obligations.LinesCarryTheirPackets := by
  refine ⟨fun s l a released closed => ⟨fun mode => ?follow, fun mode => ⟨?flat, ?emitted, ?next, ?neither⟩⟩,
    fun s w ds => ⟨s.length_draws w ds, s.slipsOnly_draws w ds, fun i d h => ?draws⟩, fun s l k gs j g h => ?built⟩
  case follow =>
    exact ⟨exec_lineReached_follow released closed mode a, exec_flatLineReached_follow released closed mode a⟩
  case flat => exact exec_flatLineReached_fallback released mode
  case emitted =>
    intro lines emitted
    rw [exec_lineReached_fallback released closed mode, State.reachFallbackLine_emitted none a lines emitted,
      State.reachLine_whole closed]
    rfl
  case next =>
    intro lines next left
    exact exec_lineReached_next released closed mode a lines next (s.ref.instantLeft_iff.2 left)
  case neither =>
    intro h reach
    rw [exec_lineReached_fallback released closed mode, State.reachFallbackLine_none reach]
    rw [RefUnit.instantLeft_iff]
    exact h
  case draws =>
    refine ⟨_, s.draws_getElem? w ds i d h, rfl, State.draw_mem .., fun unowned => ?_⟩
    have still : (s.draws w (ds.take i)).2.table.ownerOf d = none := by
      rw [Table.ownerOf, (s.slipsOnly_draws w _).map]
      exact unowned
    rw [State.draw_unowned still]
  case built =>
    obtain ⟨packet, state⟩ := s.buildGroups_getElem? l k gs j g h
    exact ⟨packet, state, s.length_buildGroups l k gs⟩

end Sys2Proof.Machine
end

section
/-! Outgoing frame starts (spec 08 section 8.3): the line drawn whole, the map after a switch point, the counts and reports
of a settled event. -/

namespace Sys2Proof.Machine

/-! ### The line of the frame that ends (R11) -/

/-- Drawing a lane's line whole leaves no line open on it, and else changes its blanking and what draws change. -/
theorem State.finishLine_frame (s : State) (l : Fin 8) : ∃ slips : Bool, s.finishLine l = { s with
    tx := s.tx.set l { s.tx.get l with line := none, blanking := ((s.finishLine l).tx.get l).blanking }
    table := { s.table with slots := (s.finishLine l).table.slots }, attn := s.attn.reportIf slips .slip } := by
  cases h : (s.tx.get l).line with
  | none =>
    have closed : s.finishLine l = s := State.goOnLine_closed h none
    have same : s.tx.set l { s.tx.get l with line := none, blanking := (s.tx.get l).blanking } = s.tx := by
      rw [← h, Bank.set_get]
    rw [closed]
    refine ⟨false, ?_⟩
    rw [same]
    rfl
  | some line =>
    obtain ⟨slips, drawn⟩ := s.slipsOnly_drawPackets l line.packets
    have whole : s.finishLine l = _ := State.goOnLine_whole h
    rw [whole]
    refine ⟨slips, ?_⟩
    simp only [State.setTx, Bank.get_set_self]
    rw [drawn]

/-! ### The map at a switch point (R63, R81) -/

theorem Dest.index_injective : Function.Injective Dest.index := by
  intro d e h
  have places := congrArg Fin.val h
  cases d <;> cases e <;> simp only [Dest.index, Dest.lane.injEq, Dest.console.injEq, reduceCtorEq, Fin.ext_iff] at places ⊢ <;>
    omega

/-- Releasing destinations empties their map entries and leaves the others. -/
theorem Table.ownerOf_release (tab : Table) (ds : List Dest) (d : Dest) :
    (tab.release ds).ownerOf d = if d ∈ ds then none else tab.ownerOf d := by
  simp only [Table.ownerOf, Table.release]
  generalize tab.map = m
  induction ds generalizing m with
  | nil => simp
  | cons e ds ih =>
    rw [List.foldl_cons, ih, Bank.get_set]
    by_cases he : e = d
    · simp [he]
    · have : e.index ≠ d.index := fun same => he (Dest.index_injective same)
      simp [this, Ne.symm he]

/-- The destinations left at a switch point are those of the LEAVING entries concerned (R81). -/
theorem State.mem_leftAt (s : State) (concerned : Dest → Bool) (d : Dest) : d ∈ s.leftAt concerned ↔
    ∃ i v, s.table.holds i v ∧ ∃ e ∈ v.entries, e.dest = d ∧ concerned d = true ∧ e.phase.isLeaving = true := by
  have record (o : Option Track) : d ∈ o.elim [] (fun t => t.leftAt concerned) ↔
      ∃ v, o = some v ∧ ∃ e ∈ v.entries, e.dest = d ∧ concerned d = true ∧ e.phase.isLeaving = true := by
    cases o with
    | none => simp
    | some v =>
      simp only [Option.elim_some, Track.leftAt, List.mem_map, List.mem_filter, Bool.and_eq_true, Option.some.injEq,
        exists_eq_left']
      exact ⟨fun ⟨e, ⟨he, hc, hl⟩, hd⟩ => ⟨e, he, hd, hd ▸ hc, hl⟩, fun ⟨e, he, hd, hc, hl⟩ => ⟨e, ⟨he, hd ▸ hc, hl⟩, hd⟩⟩
  simp only [State.leftAt, List.mem_flatMap, record, Bank.mem_cells, Table.holds]
  exact ⟨fun ⟨_, ⟨i, hi⟩, v, hv, h⟩ => ⟨i, v, hi.trans hv, h⟩, fun ⟨i, v, hi, h⟩ => ⟨_, ⟨i, hi⟩, v, rfl, h⟩⟩

/-- A switch point releases the destinations left there and no others. -/
theorem State.ownerOf_landTable (s : State) (concerned : Dest → Bool) (d : Dest) :
    (s.landTable concerned).table.ownerOf d = if d ∈ s.leftAt concerned then none else s.table.ownerOf d :=
  Table.ownerOf_release ..

/-! ### Settled events (R65 to R67, R160) -/

theorem newlyLost_eq_true_iff (o p : Option Track) : newlyLost o p = true ↔
    ∃ v u, o = some v ∧ p = some u ∧ v.sourceLost = false ∧ u.sourceLost = true := by
  cases o <;> cases p <;> simp [newlyLost, and_comm]

@[simp] theorem Bank.get_zip (a : Bank α n) (b : Bank β n) (i : Fin n) : (a.zip b).get i = (a.get i, b.get i) := by
  simp [Bank.get_eq_getElem, Bank.zip]

theorem Table.anyNewlyLost_iff (before after : Table) :
    before.anyNewlyLost after = true ↔ before.NewlyLost after := by
  simp only [Table.anyNewlyLost, List.any_eq_true, Bank.mem_cells, newlyLost_eq_true_iff, Table.NewlyLost, Table.holds]
  constructor
  · rintro ⟨_, ⟨i, rfl⟩, v, u, hv, hu, lost⟩
    rw [Bank.get_zip] at hv hu
    exact ⟨i, v, u, hv, hu, lost⟩
  · rintro ⟨i, v, u, hv, hu, lost⟩
    exact ⟨_, ⟨i, rfl⟩, v, u, by simp [hv], by simp [hu], lost⟩

/-- A settled event is reported as one event of the table. -/
theorem State.settle_reports (before s : State) :
    s.attn.ReportsTable (State.settle before s).attn before.table (State.settle before s).table :=
  ⟨_, ⟨_, Table.anyNewlyLost_iff .., rfl⟩, rfl⟩

/-- Counts that stood right stand right after a settled event. -/
theorem State.settle_countLaw {before : State} (h : before.CountLaw) (s : State) : (State.settle before s).CountLaw := by
  obtain ⟨occupancy, staged⟩ := h
  have records : (State.settle before s).table.records = s.table.records := rfl
  have items : (State.settle before s).stagedItems = s.stagedItems := rfl
  constructor
  · rw [State.settle_occupancy, records]
    omega
  · rw [State.settle_staged, items]
    omega

/-! ### The frame start (R10, R79, R140, R141, R150) -/

/-- The transmitter as its frame starts: the frame's fields set, a staged setting landed. -/
def LaneTx.beginning (tx : LaneTx) (mode : TxMode) (f : Format) (p : Nat) (passing : Bool) (store : List TakenPacket) :
    LaneTx := { tx with
  mode := mode, format := f, phase := p, plan := Plan.of f p, lines := 0
  groups := tx.staged.getD tx.groups, staged := none, passing := passing, store := store }

/-- The lane's switch point from the part `u`, its line drawn, with the transmitter `x` begun: one settled event (R79). -/
def State.switchPoint (u : State) (l : Fin 8) (x : LaneTx) : State :=
  State.settle u ((u.setTx l x).landTable (Dest.onLane l))

/-- A frame start is the line drawn whole, and then the lane's switch point. -/
theorem State.beginOutgoingFrame_eq (s : State) (l : Fin 8) (mode : TxMode) (f : Format) (p : Nat) (passing : Bool)
    (store : List TakenPacket) : s.beginOutgoingFrame l mode f p passing store =
      (s.finishLine l).switchPoint l (((s.finishLine l).tx.get l).beginning mode f p passing store) := rfl

section
variable (u : State) (l : Fin 8) (x : LaneTx)

theorem State.switchPoint_frame : u.switchPoint l x = { u with
    tx := u.tx.set l x, table := (u.switchPoint l x).table, attn := (u.switchPoint l x).attn } :=
  ((State.tableOnly_landTable ..).trans (State.tableOnly_settle ..)).1

theorem State.switchPoint_slots (i : Fin 256) : (u.switchPoint l x).table.slots.get i =
    (u.table.slots.get i).bind fun v => v.atSwitchPoint u.view u.gain.rampLength (Dest.onLane l) := Bank.get_map ..

theorem State.switchPoint_ownerOf (d : Dest) : (u.switchPoint l x).table.ownerOf d =
    if d ∈ u.leftAt (Dest.onLane l) then none else u.table.ownerOf d := State.ownerOf_landTable ..

theorem State.switchPoint_occupancy : (u.switchPoint l x).table.occupancy =
    u.table.occupancy + (u.switchPoint l x).table.records - u.table.records := rfl

theorem State.switchPoint_staged : (u.switchPoint l x).table.staged =
    u.table.staged + (u.switchPoint l x).stagedItems - u.stagedItems := rfl

theorem State.switchPoint_countLaw (h : u.CountLaw) : (u.switchPoint l x).CountLaw := State.settle_countLaw h _

theorem State.switchPoint_reports :
    u.attn.ReportsTable (u.switchPoint l x).attn u.table (u.switchPoint l x).table :=
  State.settle_reports u ((u.setTx l x).landTable (Dest.onLane l))
end

theorem exec_outgoingFrameStart (l : Fin 8) (s : State) :
    exec (.outgoingFrameStart l) s = execOutgoingFrameStart l s := rfl

/-- Settles O52: a frame start is a settled switch point after the open line, and the row gives it the fields that the
oldest handed switch line fixes. -/
theorem outgoingFramesBegin : Obligations.OutgoingFramesBegin := by
  refine ⟨fun s l mode f p passing store => ?_, fun s l released => ⟨fun none => ?_, fun h rest handed => ?_⟩⟩
  · rw [State.beginOutgoingFrame_eq]
    refine ⟨fun closed => State.goOnLine_closed closed none, s.finishLine_frame l, ?_⟩
    generalize s.finishLine l = u
    refine ⟨u.switchPoint_frame l _, u.switchPoint_slots l _, fun d leaves => ?_, fun d stays => ?_,
      u.switchPoint_occupancy l _, u.switchPoint_staged l _, u.switchPoint_countLaw l _, u.switchPoint_reports l _⟩
    · rw [State.switchPoint_ownerOf, if_pos ((u.mem_leftAt _ d).2 leaves)]
    · rw [State.switchPoint_ownerOf, if_neg]
      intro leaves
      obtain ⟨i, v, held, e, he, hd, concerned, leaving⟩ := (u.mem_leftAt _ d).1 leaves
      exact absurd leaving (by simp [stays i v held e he hd concerned])
  · rw [exec_outgoingFrameStart, execOutgoingFrameStart, State.running_released released]
    simp [State.handedFrameStart, none]
  · rw [exec_outgoingFrameStart, execOutgoingFrameStart, State.running_released released]
    simp only [State.handedFrameStart, handed]
    rfl

end Sys2Proof.Machine
end

section
/-! Packets taken and damaged (spec 03 sections 3.2 to 3.4): the marks of a group, the arrivals of a valid packet, its
keeping for PASS. -/

namespace Sys2Proof.Machine

/-! ### Group fields and damage (R40) -/

theorem readNumber_eq_some_iff {n : Nat} {b : Byte} {g : Fin n} : readNumber n b = some g ↔ g.1 + 1 = b.toNat := by
  unfold readNumber
  split
  · simp only [Option.some.injEq, Fin.ext_iff]
    omega
  · simp only [reduceCtorEq, false_iff]
    omega

theorem readNumber_eq_none_iff {n : Nat} {b : Byte} : readNumber n b = none ↔ b.toNat = 0 ∨ n < b.toNat := by
  unfold readNumber
  split
  · simp only [reduceCtorEq, false_iff]
    omega
  · simp only [true_iff]
    omega

/-- A damaged packet marks the group its field names; where no group is named, all four. -/
theorem LaneRx.damage_eq (rx : LaneRx) (field : Option Byte) : rx.damage field = { rx with
    groups := Bank.ofFn fun g =>
      if field.all (fun b => b.toNat = g.1 + 1 ∨ b.toNat = 0 ∨ 4 < b.toNat) then
        { rx.groups.get g with damagedSeen := true }
      else rx.groups.get g } := by
  unfold LaneRx.damage
  dsimp only
  congr 1
  apply Bank.ext_get
  intro g
  rw [Bank.get_ofFn]
  cases field with
  | none => simp
  | some b =>
    cases named : readNumber 4 b with
    | none =>
      have := readNumber_eq_none_iff.1 named
      simp [named, this]
    | some n =>
      have field := readNumber_eq_some_iff.1 named
      have inside : ¬(b.toNat = 0 ∨ 4 < b.toNat) := by omega
      by_cases same : n = g
      · subst same
        simp [named, field]
      · have other : ¬b.toNat = g.1 + 1 := fun h => same (Fin.ext (by omega))
        simp [named, same, other, inside]

/-! ### One arrival after another (R41, R45, R46, R48) -/

/-- A group takes one sample set; `present` says whether it is a present source. -/
def GroupRx.receive (present : Bool) (group : GroupRx) (set : Bank Sample 4) : GroupRx := { group with
  windows := Bank.ofFn fun c => (group.windows.get c).push (set.get c)
  depth := if present then min (group.depth + 1) Config.windowSize else group.depth }

/-- One group of a receiver replaced. -/
def LaneRx.putGroup (rx : LaneRx) (g : Fin 4) (group : GroupRx) : LaneRx := { rx with groups := rx.groups.set g group }

@[simp] theorem LaneRx.get_putGroup (rx : LaneRx) (g : Fin 4) (group : GroupRx) :
    (rx.putGroup g group).groups.get g = group := Bank.get_set_self ..

@[simp] theorem LaneRx.putGroup_putGroup (rx : LaneRx) (g : Fin 4) (a b : GroupRx) :
    (rx.putGroup g a).putGroup g b = rx.putGroup g b := by simp [LaneRx.putGroup]

@[simp] theorem LaneRx.putGroup_get (rx : LaneRx) (g : Fin 4) : rx.putGroup g (rx.groups.get g) = rx := by
  simp [LaneRx.putGroup]

theorem LaneRx.groupPresent_putGroup (rx : LaneRx) (g : Fin 4) (group : GroupRx) :
    (rx.putGroup g group).groupPresent g = (decide (rx.state = .locked) && group.present) := by
  unfold LaneRx.groupPresent
  rw [LaneRx.get_putGroup]
  rfl

@[simp] theorem State.setRx_setRx (s : State) (l : Fin 8) (a b : LaneRx) : (s.setRx l a).setRx l b = s.setRx l b := by
  simp [State.setRx]

@[simp] theorem State.setRx_get (s : State) (l : Fin 8) : s.setRx l (s.rx.get l) = s := by simp [State.setRx]

/-- What a group holds after sample sets taken one after another. -/
def GroupRx.received (present : Bool) (group : GroupRx) (sets : List (Bank Sample 4)) : GroupRx :=
  sets.foldl (GroupRx.receive present) group

theorem GroupRx.received_present (present : Bool) (group : GroupRx) (sets : List (Bank Sample 4)) :
    (group.received present sets).present = group.present := by
  induction sets generalizing group with
  | nil => rfl
  | cons set sets ih => exact ih (group.receive present set)

theorem GroupRx.received_append (present : Bool) (group : GroupRx) (sets : List (Bank Sample 4)) (set : Bank Sample 4) :
    group.received present (sets ++ [set]) = (group.received present sets).receive present set := by
  simp [GroupRx.received]

/-- The depth that a further arrival leaves: it grows to 16 and stays there. -/
theorem GroupRx.received_depth_succ (group : GroupRx) (sets : List (Bank Sample 4)) :
    min ((group.received true sets).depth + 1) 16 = min (group.depth + sets.length + 1) 16 := by
  induction sets generalizing group with
  | nil => rfl
  | cons set sets ih =>
    have first : (group.receive true set).depth = min (group.depth + 1) 16 := rfl
    have rest := ih (group.receive true set)
    simp only [GroupRx.received, List.foldl_cons, List.length_cons] at rest ⊢
    omega

/-- Each window takes its channel's samples in order; the depth of a present group rises by the sets, to 16. -/
theorem GroupRx.received_eq (present : Bool) (group : GroupRx) (sets : List (Bank Sample 4)) (h : group.depth ≤ 16) :
    group.received present sets = { group with
      depth := if present then min (group.depth + sets.length) 16 else group.depth
      windows := Bank.ofFn fun c => sets.foldl (fun w set => w.push (set.get c)) (group.windows.get c) } := by
  induction sets using List.reverseRecOn with
  | nil =>
    have same : Bank.ofFn (fun c => group.windows.get c) = group.windows := Bank.ext_get fun c => by simp
    simp [GroupRx.received, same, h]
  | append_singleton sets set ih =>
    rw [GroupRx.received_append, ih]
    cases present <;> simp [GroupRx.receive, Config.windowSize]
    omega

/-! ### The arrivals of a packet reach the table (R48, R101, R106) -/

/-- A record after `j` arrivals of a lane group whose depth stood at `depth`. -/
def Track.arrivals (l : Fin 8) (g : Fin 4) (depth j : Nat) (t : Track) : Track :=
  (List.range j).foldl (fun u i => u.arrive (ofGroup l g) (min (depth + i + 1) 16)) t

theorem Track.arrivals_succ (l : Fin 8) (g : Fin 4) (depth j : Nat) (t : Track) :
    t.arrivals l g depth (j + 1) = (t.arrivals l g depth j).arrive (ofGroup l g) (min (depth + j + 1) 16) := by
  simp [Track.arrivals, List.range_succ]

/-- Arrivals leave the sources of a record's entries. -/
theorem Track.effective_arrivals (l : Fin 8) (g : Fin 4) (depth j : Nat) (t : Track) (e : Entry) :
    (t.arrivals l g depth j).effective e = t.effective e := by
  induction j with
  | zero => rfl
  | succ j ih => rw [Track.arrivals_succ]; exact ih

/-- An arrival of a lane group slips where an entry of that source that keeps lag stands at 16 (R101). -/
theorem Track.slipsOnArrival_iff (t : Track) (l : Fin 8) (g : Fin 4) : t.slipsOnArrival (ofGroup l g) = true ↔
    ∃ e ∈ t.entries, ofGroup l g (t.effective e) = true ∧ e.phase.manner = some .active ∧ 16 ≤ e.lag := by
  simp only [Track.slipsOnArrival, List.any_eq_true, Bool.and_eq_true, Track.keepsLag, decide_eq_true_eq,
    Config.windowSize]
  refine exists_congr fun e => and_congr_right fun _ => ⟨fun ⟨⟨into, active, _⟩, lag⟩ => ⟨into, active, of_decide_eq_true lag⟩,
    fun ⟨into, active, lag⟩ => ⟨⟨into, active, ?_⟩, decide_eq_true lag⟩⟩
  cases source : t.effective e <;> simp_all [ofGroup]

/-- Whether one of the next `k` arrivals of a lane group slips some record. -/
def State.arrivalsSlip (s : State) (l : Fin 8) (g : Fin 4) (depth k : Nat) : Bool :=
  (List.range k).any fun j => s.anyTrack fun t => (t.arrivals l g depth j).slipsOnArrival (ofGroup l g)

theorem State.anyTrack_iff (s : State) (p : Track → Bool) :
    s.anyTrack p = true ↔ ∃ i v, s.table.holds i v ∧ p v = true := by
  simp only [State.anyTrack, List.any_eq_true, Bank.mem_cells, Option.any_eq_true, Table.holds]
  exact ⟨fun ⟨_, ⟨i, hi⟩, v, hv, h⟩ => ⟨i, v, hi.trans hv, h⟩, fun ⟨i, v, hi, h⟩ => ⟨_, ⟨i, hi⟩, v, rfl, h⟩⟩

theorem State.arrivalsSlip_iff (s : State) (l : Fin 8) (g : Fin 4) (depth k : Nat) :
    s.arrivalsSlip l g depth k = true ↔ ∃ i v j, s.table.holds i v ∧ j < k ∧
      ∃ e ∈ (v.arrivals l g depth j).entries, ofGroup l g (v.effective e) = true ∧
        e.phase.manner = some .active ∧ 16 ≤ e.lag := by
  simp only [State.arrivalsSlip, List.any_eq_true, List.mem_range, State.anyTrack_iff, Track.slipsOnArrival_iff,
    Track.effective_arrivals]
  exact ⟨fun ⟨j, hj, i, v, hv, h⟩ => ⟨i, v, j, hv, hj, h⟩, fun ⟨i, v, j, hv, hj, h⟩ => ⟨j, hj, i, v, hv, h⟩⟩

theorem State.anyTrack_mapTracks (s : State) (f : Track → Track) (p : Track → Bool) :
    (s.mapTracks f).anyTrack p = s.anyTrack fun t => p (f t) := by
  simp only [State.anyTrack, State.mapTracks_table, Bank.map, List.any_map]
  congr 1
  funext o
  cases o <;> rfl

/-- A group that is no present source takes samples into its windows only. -/
theorem State.laneArrival_absent {s : State} {l : Fin 8} {g : Fin 4} (h : (s.rx.get l).groupPresent g = false)
    (set : Bank Sample 4) : State.laneArrival l g s set =
      s.setRx l ((s.rx.get l).putGroup g (((s.rx.get l).groups.get g).receive false set)) := by
  simp only [State.laneArrival, h]
  rfl

/-- A present one hands the arrival to the table. -/
theorem State.laneArrival_present {s : State} {l : Fin 8} {g : Fin 4} (h : (s.rx.get l).groupPresent g = true)
    (set : Bank Sample 4) : State.laneArrival l g s set =
      (s.setRx l ((s.rx.get l).putGroup g (((s.rx.get l).groups.get g).receive true set))).arrival (ofGroup l g)
        (min (((s.rx.get l).groups.get g).depth + 1) 16) := by
  simp only [State.laneArrival, h]
  rfl

theorem State.laneArrivals_absent {s : State} {l : Fin 8} {g : Fin 4} (h : (s.rx.get l).groupPresent g = false)
    (sets : List (Bank Sample 4)) : sets.foldl (State.laneArrival l g) s =
      s.setRx l ((s.rx.get l).putGroup g (((s.rx.get l).groups.get g).received false sets)) := by
  induction sets using List.reverseRecOn with
  | nil => simp [GroupRx.received]
  | append_singleton sets set ih =>
    rw [List.foldl_append, ih, List.foldl_cons, List.foldl_nil, State.laneArrival_absent]
    · simp [GroupRx.received_append]
    · rw [State.setRx_rx, Bank.get_set_self, LaneRx.groupPresent_putGroup, GroupRx.received_present]
      exact h

/-- Further changes of records, and a further report of a slip, join those made before. -/
theorem State.arrival_joins (s : State) (f : Track → Track) (b : Bool) (into : Source → Bool) (depth : Nat) :
    ((s.mapTracks f).reportIf b .slip).arrival into depth =
      (s.mapTracks fun t => (f t).arrive into depth).reportIf
        (b || s.anyTrack fun t => (f t).slipsOnArrival into) .slip := by
  have slots : (s.table.slots.map (Option.map f)).map (Option.map fun t => t.arrive into depth) =
      s.table.slots.map (Option.map fun t => (f t).arrive into depth) := Bank.ext_get fun i => by
    simp [Function.comp_def]
  have slips : ((s.mapTracks f).reportIf b .slip).anyTrack (fun t => t.slipsOnArrival into) =
      s.anyTrack fun t => (f t).slipsOnArrival into := s.anyTrack_mapTracks f _
  simp only [State.arrival, slips]
  simp only [State.reportIf, State.mapTracks, Attention.reportIf_reportIf, slots]

theorem State.setRx_after (s : State) (l : Fin 8) (x y : LaneRx) (f : Track → Track) (b : Bool) :
    (((s.setRx l x).mapTracks f).reportIf b .slip).setRx l y = ((s.setRx l y).mapTracks f).reportIf b .slip := by
  simp only [State.setRx, State.mapTracks, State.reportIf, Bank.set_set]

theorem State.mapTracks_arrivals_zero (s : State) (l : Fin 8) (g : Fin 4) (depth : Nat) :
    s.mapTracks (Track.arrivals l g depth 0) = s := by
  have same : s.table.slots.map (Option.map (Track.arrivals l g depth 0)) = s.table.slots := Bank.ext_get fun i => by
    rw [Bank.get_map]
    exact congrFun Option.map_id _
  simp only [State.mapTracks, same]

theorem State.arrivalsSlip_succ (s : State) (l : Fin 8) (g : Fin 4) (depth k : Nat) :
    s.arrivalsSlip l g depth (k + 1) = (s.arrivalsSlip l g depth k ||
      s.anyTrack fun t => (t.arrivals l g depth k).slipsOnArrival (ofGroup l g)) := by
  simp [State.arrivalsSlip, List.range_succ]

/-- The sample sets of a packet of a present group: the windows and the depth, each record after as many arrivals, and
SLIP for those found at 16. -/
theorem State.laneArrivals_present {s : State} {l : Fin 8} {g : Fin 4} (h : (s.rx.get l).groupPresent g = true)
    (sets : List (Bank Sample 4)) :
    let group := (s.rx.get l).groups.get g
    sets.foldl (State.laneArrival l g) s =
      ((s.setRx l ((s.rx.get l).putGroup g (group.received true sets))).mapTracks
        (Track.arrivals l g group.depth sets.length)).reportIf (s.arrivalsSlip l g group.depth sets.length) .slip := by
  induction sets using List.reverseRecOn with
  | nil => simp [GroupRx.received, State.mapTracks_arrivals_zero, State.arrivalsSlip]
  | append_singleton sets set ih =>
    rw [List.foldl_append, ih, List.foldl_cons, List.foldl_nil, State.laneArrival_present]
    · rw [State.setRx_after, State.arrival_joins]
      simp only [State.reportIf_rx, State.mapTracks_rx, State.setRx_rx, Bank.get_set_self, LaneRx.get_putGroup,
        LaneRx.putGroup_putGroup, GroupRx.received_depth_succ, ← GroupRx.received_append, List.length_append,
        List.length_singleton, State.arrivalsSlip_succ, ← Track.arrivals_succ]
      rfl
    · rw [State.reportIf_rx, State.mapTracks_rx, State.setRx_rx, Bank.get_set_self, LaneRx.groupPresent_putGroup,
        GroupRx.received_present]
      exact h

/-! ### Keeping for PASS (R143; log 9) -/

theorem LaneTx.keep_handed {tx : LaneTx} {hs : List Handed} {h : Handed} (handed : tx.handed = hs ++ [h])
    (p : TakenPacket) : tx.keep p = { tx with handed := hs ++ [{ h with packets := h.packets ++ [p] }] } := by
  simp [LaneTx.keep, handed]

theorem LaneTx.keep_passing {tx : LaneTx} (handed : tx.handed = []) (mode : tx.mode = .follow) (passing : tx.passing = true)
    (p : TakenPacket) : tx.keep p = { tx with store := tx.store ++ [p] } := by
  simp [LaneTx.keep, handed, mode, passing]

theorem LaneTx.keep_none {tx : LaneTx} (handed : tx.handed = []) (h : tx.mode = .fallback ∨ tx.passing = false)
    (p : TakenPacket) : tx.keep p = tx := by
  rcases h with h | h <;> simp [LaneTx.keep, handed, h]

/-! ### A valid packet taken (R38 to R41, R44) -/

theorem Packet.length_sets (p : Packet) : p.sets.length = p.count.toNat % 16 := by simp [Packet.sets, countOf]

theorem Packet.valid_iff (p : Packet) (Q : Nat) : p.valid Q = true ↔
    sumBytes p.bytes % 256 = 0 ∧ 1 ≤ p.group.toNat ∧ p.group.toNat ≤ 4 ∧ p.phase.toNat < Q := by
  have named : (readNumber 4 p.group).isSome = true ↔ 1 ≤ p.group.toNat ∧ p.group.toNat ≤ 4 := by
    rw [← Option.ne_none_iff_isSome, ne_eq, readNumber_eq_none_iff]
    omega
  simp only [Packet.valid, Bool.and_eq_true, named, decide_eq_true_eq, and_assoc]

/-- A receiver that has noted a valid packet of a group and taken its sample sets. -/
def LaneRx.took (rx : LaneRx) (g : Fin 4) (p : Packet) : LaneRx :=
  (rx.noteValid g p.phase.toNat).putGroup g
    (GroupRx.received (rx.groupPresent g) { rx.groups.get g with validSeen := true } p.sets)

theorem LaneRx.get_noteValid (rx : LaneRx) (g : Fin 4) (phase : Nat) :
    (rx.noteValid g phase).groups.get g = { rx.groups.get g with validSeen := true } := Bank.get_modify_self ..

theorem LaneRx.groupPresent_noteValid (rx : LaneRx) (g : Fin 4) (phase : Nat) :
    (rx.noteValid g phase).groupPresent g = rx.groupPresent g := by
  unfold LaneRx.groupPresent
  rw [LaneRx.get_noteValid]
  rfl

theorem LaneRx.took_get_ne (rx : LaneRx) {g other : Fin 4} (p : Packet) (h : g ≠ other) :
    (rx.took g p).groups.get other = rx.groups.get other := by
  simp [LaneRx.took, LaneRx.putGroup, LaneRx.noteValid, h]

theorem LaneRx.took_get (rx : LaneRx) (g : Fin 4) (p : Packet) (h : (rx.groups.get g).depth ≤ 16) :
    (rx.took g p).groups.get g = { rx.groups.get g with
      validSeen := true
      depth := if rx.groupPresent g then min ((rx.groups.get g).depth + p.count.toNat % 16) 16
        else (rx.groups.get g).depth
      windows := Bank.ofFn fun c => p.sets.foldl (fun w set => w.push (set.get c))
        ((rx.groups.get g).windows.get c) } := by
  have noted := GroupRx.received_eq (rx.groupPresent g) { rx.groups.get g with validSeen := true } p.sets h
  rw [LaneRx.took, LaneRx.get_putGroup, noted, Packet.length_sets]

/-- The part after the arrivals of a valid packet. -/
def State.packetArrived (s : State) (l : Fin 8) (g : Fin 4) (p : Packet) : State :=
  p.sets.foldl (State.laneArrival l g) (s.setRx l ((s.rx.get l).noteValid g p.phase.toNat))

section
variable {s : State} {l : Fin 8} {g : Fin 4} (p : Packet)

theorem State.packetArrived_absent (h : (s.rx.get l).groupPresent g = false) :
    s.packetArrived l g p = s.setRx l ((s.rx.get l).took g p) := by
  rw [State.packetArrived, State.laneArrivals_absent]
  · simp only [State.setRx_rx, Bank.get_set_self, State.setRx_setRx, LaneRx.get_noteValid, LaneRx.took, h]
  · rw [State.setRx_rx, Bank.get_set_self, LaneRx.groupPresent_noteValid, h]

theorem State.packetArrived_present (h : (s.rx.get l).groupPresent g = true) :
    let depth := ((s.rx.get l).groups.get g).depth
    let k := p.count.toNat % 16
    s.packetArrived l g p = ((s.setRx l ((s.rx.get l).took g p)).mapTracks (Track.arrivals l g depth k)).reportIf
      (s.arrivalsSlip l g depth k) .slip := by
  rw [State.packetArrived, State.laneArrivals_present]
  · simp only [State.setRx_rx, Bank.get_set_self, State.setRx_setRx, LaneRx.get_noteValid, LaneRx.took, h,
      Packet.length_sets]
    rfl
  · rw [State.setRx_rx, Bank.get_set_self, LaneRx.groupPresent_noteValid, h]

/-- Apart from the receiver, arrivals change records and may report SLIP. -/
theorem State.packetArrived_frame : (s.setRx l ((s.rx.get l).took g p)).SlipsOnly (s.packetArrived l g p) := by
  cases h : (s.rx.get l).groupPresent g with
  | false => rw [State.packetArrived_absent p h]; exact .refl _
  | true => rw [State.packetArrived_present p h]; exact ⟨_, rfl⟩

theorem State.packetArrived_rx : (s.packetArrived l g p).rx = s.rx.set l ((s.rx.get l).took g p) :=
  (State.packetArrived_frame p).rx

/-- The part after a valid packet of arriving line `line`: it arrives and is kept (R143). -/
def State.packetKept (s : State) (l : Fin 8) (line : Nat) (g : Fin 4) (p : Packet) : State :=
  (s.packetArrived l g p).setTx l ((s.tx.get l).keep ⟨line, g, p.bytes⟩)

theorem State.packetKept_rx (line : Nat) : (s.packetKept l line g p).rx.get l = (s.rx.get l).took g p := by
  rw [State.packetKept, State.setTx_rx, State.packetArrived_rx, Bank.get_set_self]

theorem State.packetKept_tx (line : Nat) : (s.packetKept l line g p).tx.get l = (s.tx.get l).keep ⟨line, g, p.bytes⟩ :=
  Bank.get_set_self ..

/-- The lane's receiver and transmitter change, records and requests; no other block does. -/
theorem State.packetKept_frame (line : Nat) : s.packetKept l line g p = { s with
    rx := s.rx.set l ((s.packetKept l line g p).rx.get l), tx := s.tx.set l ((s.packetKept l line g p).tx.get l)
    attn := (s.packetKept l line g p).attn
    table := { s.table with slots := (s.packetKept l line g p).table.slots } } := by
  obtain ⟨slips, arrived⟩ := State.packetArrived_frame (s := s) (l := l) (g := g) p
  rw [State.packetKept_rx, State.packetKept_tx]
  unfold State.packetKept
  rw [arrived]
  rfl

/-- A valid packet arrives and is kept; any other damages the group it names. -/
theorem State.takePacket_valid (line : Nat) {f : Format} (format : (s.rx.get l).format = some f)
    (valid : p.valid f.cadence = true) (group : g.1 + 1 = p.group.toNat) :
    s.takePacket l line p = s.packetKept l line g p := by
  have tx : (s.packetArrived l g p).tx = s.tx := (State.packetArrived_frame p).tx
  rw [State.packetKept, ← tx]
  simp only [State.takePacket, format, Option.map_some, Option.getD_some, valid, readNumber_eq_some_iff.2 group]
  rfl

theorem State.takePacket_invalid (line : Nat) {f : Format} (format : (s.rx.get l).format = some f)
    (invalid : ¬p.valid f.cadence = true) :
    s.takePacket l line p = s.setRx l ((s.rx.get l).damage (some p.group)) := by
  simp [State.takePacket, format, invalid]
end

/-! ### The rows PACKET_TAKEN, PACKET_CUT_OFF and COUNT_FIELD_DAMAGED -/

theorem exec_packetTaken (l : Fin 8) (line : Nat) (bytes : List Byte) (s : State) :
    exec (.packetTaken l line bytes) s = execPacketTaken l line bytes s := rfl

theorem exec_packetCutOff (l : Fin 8) (line : Nat) (bytes : List Byte) (s : State) :
    exec (.packetCutOff l line bytes) s = execPacketCutOff l line bytes s := rfl

theorem exec_countFieldDamaged (l : Fin 8) (line : Nat) (bytes : List Byte) (s : State) :
    exec (.countFieldDamaged l line bytes) s = execCountFieldDamaged l line bytes s := rfl

section
variable {s : State} {l : Fin 8} {line : Nat} {bytes : List Byte} (released : s.resetHeld = false)
include released

/-- Outside LOCKED, and on lines 1 and 2, packets do nothing (R3, R38). -/
theorem exec_packets_idle (idle : (s.rx.get l).takes line = false) : exec (.packetTaken l line bytes) s = .next s ∧
    exec (.packetCutOff l line bytes) s = .next s ∧ exec (.countFieldDamaged l line bytes) s = .next s := by
  rw [exec_packetTaken, exec_packetCutOff, exec_countFieldDamaged, execPacketTaken, execPacketCutOff,
    execCountFieldDamaged]
  simp [State.running_released released, idle]

variable (takes : (s.rx.get l).takes line = true)
include takes

theorem exec_packetTaken_found {p : Packet} (found : search bytes = .taken p) :
    exec (.packetTaken l line bytes) s = .next (s.takePacket l line p) := by
  rw [exec_packetTaken, execPacketTaken, State.running_released released, takes, found]

theorem exec_packetCutOff_found {field : Option Byte} (found : search bytes = .cutOff field) :
    exec (.packetCutOff l line bytes) s = .next (s.setRx l ((s.rx.get l).damage field)) := by
  rw [exec_packetCutOff, execPacketCutOff, State.running_released released, takes, found]

theorem exec_countFieldDamaged_found {field : Byte} (found : search bytes = .countDamaged field) :
    exec (.countFieldDamaged l line bytes) s = .next (s.setRx l ((s.rx.get l).damage (some field))) := by
  rw [exec_countFieldDamaged, execCountFieldDamaged, State.running_released released, takes, found]
end

/-- Settles O51: a damaged packet is a mark; a valid one folds its arrivals over the records and is kept. -/
theorem packetsArriveOrDamage : Obligations.PacketsArriveOrDamage := by
  intro s l line bytes released
  refine ⟨fun idle => exec_packets_idle released (by rcases idle with h | h <;> simp [LaneRx.takes, h]),
    fun locked carriage => ?_⟩
  have takes : (s.rx.get l).takes line = true := by simp [LaneRx.takes, locked, carriage]
  have damaged (field : Option Byte) := congrArg (fun x => Host.Outcome.next (s.setRx l x) (φ := Fault) (ρ := Refusal))
    ((s.rx.get l).damage_eq field)
  refine ⟨fun field found => (exec_packetCutOff_found released takes found).trans (damaged field),
    fun field found => (exec_countFieldDamaged_found released takes found).trans (damaged (some field)),
    fun p f found format => ⟨fun invalid => ?_, fun valid => ?_⟩⟩
  · rw [exec_packetTaken_found released takes found,
      State.takePacket_invalid p line format (by rwa [Packet.valid_iff])]
    exact damaged (some p.group)
  obtain ⟨g, group⟩ : ∃ g : Fin 4, g.1 + 1 = p.group.toNat := by
    obtain ⟨_, low, high, _⟩ := valid
    exact ⟨⟨p.group.toNat - 1, by omega⟩, by simp only []; omega⟩
  have present : (s.rx.get l).groupPresent g = ((s.rx.get l).groups.get g).present := by
    simp [LaneRx.groupPresent, locked]
  refine ⟨s.packetKept l line g p, ?row, State.packetKept_frame p line, ?phase, ?receiver, fun other ne => ?others,
    fun g' named => ?_⟩
  case row =>
    rw [exec_packetTaken_found released takes found, State.takePacket_valid p line format ((p.valid_iff _).2 valid) group]
  case phase => rw [State.packetKept_rx]; rfl
  case receiver => rw [State.packetKept_rx]; rfl
  case others =>
    rw [State.packetKept_rx]
    exact LaneRx.took_get_ne _ p fun same => ne (same ▸ group)
  obtain rfl : g = g' := Fin.ext (by omega)
  refine ⟨fun handed mode passing => ?_, fun handed idle => ?_, fun hs h handed => ?_, fun absent => ?absent,
    fun bounded => ?group, fun bounded isPresent => ?_⟩
  · rw [State.packetKept_tx, LaneTx.keep_passing handed mode passing]
  · rw [State.packetKept_tx, LaneTx.keep_none handed idle]
  · rw [State.packetKept_tx, LaneTx.keep_handed handed]
  case absent =>
    rw [State.packetKept, State.packetArrived_absent p (present.trans absent)]
    exact ⟨rfl, rfl⟩
  case group => rw [State.packetKept_rx, LaneRx.took_get _ g p bounded, present]
  · rw [State.packetKept, State.packetArrived_present p (present.trans isPresent)]
    exact ⟨fun i => Bank.get_map .., _, State.arrivalsSlip_iff .., rfl⟩

end Sys2Proof.Machine
end

section
/-! The reference frame start (spec 02 R26 to R29): what it changes, lane by lane, and the counts it keeps. -/

namespace Sys2Proof.Machine

/-! ### What keeps the counts (R65, R66) -/

/-- The two counts stand, and so do the numbers of records and of staged items. -/
def State.KeepsCounts (s t : State) : Prop :=
  t.table.occupancy = s.table.occupancy ∧ t.table.staged = s.table.staged ∧
  t.table.records = s.table.records ∧ t.stagedItems = s.stagedItems

theorem State.KeepsCounts.refl (s : State) : s.KeepsCounts s := ⟨rfl, rfl, rfl, rfl⟩

theorem State.KeepsCounts.trans {s t u : State} (h : s.KeepsCounts t) (k : t.KeepsCounts u) : s.KeepsCounts u := by
  obtain ⟨occupancy, staged, records, items⟩ := h
  obtain ⟨occupancy', staged', records', items'⟩ := k
  exact ⟨occupancy'.trans occupancy, staged'.trans staged, records'.trans records, items'.trans items⟩

theorem State.KeepsCounts.countLaw {s t : State} (h : s.KeepsCounts t) (law : s.CountLaw) : t.CountLaw := by
  obtain ⟨occupancy, staged, records, items⟩ := h
  exact ⟨by rw [occupancy, records, law.1], by rw [staged, items, law.2]⟩

/-- A record's staged items are counted from its pending source and its entries' phases. -/
theorem Track.stagedItems_congr {t u : Track} (pending : u.pendingSource = t.pendingSource)
    (phases : u.entries.map (·.phase) = t.entries.map (·.phase)) : u.stagedItems = t.stagedItems := by
  have count (v : Track) : v.stagedItems = v.pendingSource.isSome.toNat +
      (v.entries.map (·.phase)).countP fun p => p.isJoining || p.isLeaving := by
    rw [Track.stagedItems, List.countP_map]
    rfl
  rw [count, count, pending, phases]

@[simp] theorem Track.entryDrawn_dest (t : Track) (window : Nat → Sample) (e : Entry) :
    (t.entryDrawn window e).dest = e.dest := by unfold Track.entryDrawn; split <;> rfl
@[simp] theorem Track.entryDrawn_phase (t : Track) (window : Nat → Sample) (e : Entry) :
    (t.entryDrawn window e).phase = e.phase := by unfold Track.entryDrawn; split <;> rfl
@[simp] theorem Track.entryDrawn_taken (t : Track) (window : Nat → Sample) (e : Entry) :
    (t.entryDrawn window e).taken = e.taken := by unfold Track.entryDrawn; split <;> rfl

/-- A ramp step changes gain now and the ramp and no other field (R122). -/
theorem Track.stepRamp_eq (t : Track) :
    t.stepRamp = { t with gainNow := t.stepRamp.gainNow, ramp := t.stepRamp.ramp } := by
  unfold Track.stepRamp
  split
  · rfl
  · split <;> rfl

theorem State.keepsCounts_mapTracks (s : State) {f : Track → Track} (h : ∀ t, (f t).stagedItems = t.stagedItems) :
    s.KeepsCounts (s.mapTracks f) := by
  refine ⟨rfl, rfl, ?_, ?_⟩
  · simp only [Table.records, State.mapTracks_table, Bank.map, List.countP_map, Function.comp_def, Option.isSome_map]
  · have items (o : Option Track) : (o.map f).elim 0 Track.stagedItems = o.elim 0 Track.stagedItems := by
      cases o with
      | none => rfl
      | some t => exact h t
    simp only [State.stagedItems, State.stagedLanes, State.mapTracks_table, State.mapTracks_tx, Bank.map, List.map_map,
      Function.comp_def, items]

theorem State.keepsCounts_stepRamps (s : State) : s.KeepsCounts (s.mapTracks Track.stepRamp) :=
  s.keepsCounts_mapTracks fun t => by rw [Track.stepRamp_eq]; rfl

theorem State.keepsCounts_draw (s : State) (d : Dest) (w : WordLength) : s.KeepsCounts (s.draw d w).2 := by
  unfold State.draw
  split
  · exact .refl s
  · next i t e ho =>
    have held : s.table.slots.get i = some t := (Table.owning_eq_some ho).1
    dsimp only
    generalize hu : ({ (t.modifyEntry d (t.entryDrawn (s.sampleAt (t.effective e)))) with
      slipped := t.slipped || t.slipsOnDraw e
      clipped := t.clipped || t.clips s.gain.rounding w (t.drawn (s.sampleAt (t.effective e)) e) } : Track) = u
    have same : u.stagedItems = t.stagedItems := by
      refine Track.stagedItems_congr (by rw [← hu]; rfl) ?_
      rw [← hu]
      simp only [Track.modifyEntry, List.map_map]
      refine List.map_congr_left fun f _ => ?_
      rw [Function.comp_apply]
      split
      · exact t.entryDrawn_phase _ f
      · rfl
    have records := Table.records_put s.table i (some u)
    have items := State.stagedItems_put s (s.table.put i (some u)) i (some u) rfl
    rw [held] at records items
    refine ⟨rfl, rfl, Nat.add_right_cancel records, Nat.add_right_cancel (items.trans ?_)⟩
    rw [slotItems, slotItems, Option.elim_some, Option.elim_some, same]

theorem State.keepsCounts_draws (s : State) (w : WordLength) (ds : List Dest) : s.KeepsCounts (s.draws w ds).2 := by
  induction ds generalizing s with
  | nil => exact .refl s
  | cons d ds ih => exact (s.keepsCounts_draw d w).trans (ih _)

theorem State.keepsCounts_drawPackets (s : State) (l : Fin 8) (ps : List OpenPacket) :
    s.KeepsCounts (s.drawPackets l ps).2 := by
  induction ps generalizing s with
  | nil => exact .refl s
  | cons p ps ih => exact (s.keepsCounts_draws ..).trans (ih _)

theorem State.keepsCounts_setTx {s : State} {l : Fin 8} {x : LaneTx} (h : x.staged = (s.tx.get l).staged) :
    s.KeepsCounts (s.setTx l x) := by
  have items := s.stagedItems_setTx l x
  rw [h] at items
  exact ⟨rfl, rfl, rfl, Nat.add_right_cancel items⟩

theorem State.keepsCounts_finishLine (s : State) (l : Fin 8) : s.KeepsCounts (s.finishLine l) := by
  unfold State.finishLine
  cases h : (s.tx.get l).line with
  | none => rw [State.goOnLine_closed h]; exact .refl s
  | some line =>
    rw [State.goOnLine_whole h]
    refine (s.keepsCounts_drawPackets l _).trans (State.keepsCounts_setTx ?_)
    rw [(s.slipsOnly_drawPackets l _).tx]

theorem State.keepsCounts_withRef (s : State) (r : RefUnit) : s.KeepsCounts (s.withRef r) := ⟨rfl, rfl, rfl, rfl⟩

theorem State.keepsCounts_instantWork (s : State) (early : BitVec 64) : s.KeepsCounts (s.instantWork early) := by
  have work := ((s.keepsCounts_draws .w24 ((consoleChannels early true).map .console)).trans
    (State.keepsCounts_stepRamps _)).trans
    (State.keepsCounts_draws _ .w24 ((consoleChannels early false).map .console))
  exact work

theorem State.keepsCounts_completeInstant (s : State) : s.KeepsCounts s.completeInstant := by
  unfold State.completeInstant
  split
  · exact (s.keepsCounts_withRef _).trans (State.keepsCounts_instantWork _ 0)
  · exact .refl s

/-! ### One lane's outgoing frame (R10, R11, R139) -/

/-- Only transmitters, the table and requests have changed. -/
def State.LanesOnly (s t : State) : Prop := t = { s with tx := t.tx, table := t.table, attn := t.attn }

theorem State.LanesOnly.refl (s : State) : s.LanesOnly s := rfl

theorem State.LanesOnly.trans {s t u : State} (h : s.LanesOnly t) (k : t.LanesOnly u) : s.LanesOnly u := by
  unfold State.LanesOnly at *
  rw [k, h]

theorem State.LanesOnly.rx {s t : State} (h : s.LanesOnly t) : t.rx = s.rx := by rw [h]
theorem State.LanesOnly.ref {s t : State} (h : s.LanesOnly t) : t.ref = s.ref := by rw [h]
theorem State.LanesOnly.now {s t : State} (h : s.LanesOnly t) : t.now = s.now := by rw [h]

theorem State.lanesOnly_beginOutgoingFrame (s : State) (l : Fin 8) (m : TxMode) (f : Format) (p : Nat) (b : Bool)
    (st : List TakenPacket) : s.LanesOnly (s.beginOutgoingFrame l m f p b st) := by
  obtain ⟨slips, finished⟩ := s.finishLine_frame l
  rw [State.LanesOnly, State.beginOutgoingFrame_eq, State.switchPoint_frame, finished]

/-- The lane's transmitter begins the frame with no line open; the other lanes' stand. -/
theorem State.beginOutgoingFrame_tx (s : State) (l : Fin 8) (m : TxMode) (f : Format) (p : Nat) (b : Bool)
    (st : List TakenPacket) : (s.beginOutgoingFrame l m f p b st).tx = s.tx.set l
      { (s.tx.get l).beginning m f p b st with line := none, blanking := ((s.finishLine l).tx.get l).blanking } := by
  obtain ⟨slips, finished⟩ := s.finishLine_frame l
  have tx : (s.finishLine l).tx = s.tx.set l
      { s.tx.get l with line := none, blanking := ((s.finishLine l).tx.get l).blanking } := congrArg State.tx finished
  rw [State.beginOutgoingFrame_eq, State.switchPoint_frame]
  dsimp only
  generalize ((s.finishLine l).tx.get l).blanking = blanking at tx ⊢
  rw [tx, Bank.set_set, Bank.get_set_self]
  rfl

theorem State.beginOutgoingFrame_countLaw {s : State} (h : s.CountLaw) (l : Fin 8) (m : TxMode) (f : Format) (p : Nat)
    (b : Bool) (st : List TakenPacket) : (s.beginOutgoingFrame l m f p b st).CountLaw := by
  rw [State.beginOutgoingFrame_eq]
  exact State.switchPoint_countLaw _ l _ ((s.keepsCounts_finishLine l).countLaw h)

/-! ### The FALLBACK lanes of a reference frame (R137, R139) -/

/-- A FALLBACK frame begins on lane `l`. -/
def State.beginFallback (f : Format) (p : Nat) (s : State) (l : Fin 8) : State :=
  s.beginOutgoingFrame l .fallback f p false []

/-- Whether a reference frame start begins a frame on lane `l`. -/
def State.fallsBack (s : State) (l : Fin 8) : Bool :=
  (s.tx.get l).mode = .fallback || (s.rx.get l).state != .locked

theorem State.laneAtReferenceFrame_eq (s : State) (l : Fin 8) : s.laneAtReferenceFrame l =
    if s.fallsBack l then s.beginFallback s.ref.format s.ref.phase l else s := rfl

section
variable (f : Format) (p : Nat)

theorem State.lanesOnly_beginFallbacks (ls : List (Fin 8)) (s : State) :
    s.LanesOnly (ls.foldl (State.beginFallback f p) s) := by
  induction ls generalizing s with
  | nil => exact .refl s
  | cons l ls ih => exact (s.lanesOnly_beginOutgoingFrame ..).trans (ih _)

theorem State.beginFallbacks_tx_other {ls : List (Fin 8)} {l : Fin 8} (h : l ∉ ls) (s : State) :
    (ls.foldl (State.beginFallback f p) s).tx.get l = s.tx.get l := by
  induction ls generalizing s with
  | nil => rfl
  | cons k ls ih =>
    obtain ⟨ne, rest⟩ := not_or.1 (mt List.mem_cons.2 h)
    rw [List.foldl_cons, ih rest, State.beginFallback, State.beginOutgoingFrame_tx, Bank.get_set_ne _ _ (Ne.symm ne)]

/-- Each lane listed has begun its frame, whatever the others did. -/
theorem State.beginFallbacks_tx {ls : List (Fin 8)} (distinct : ls.Nodup) {l : Fin 8} (h : l ∈ ls) (s : State) :
    ∃ blanking, (ls.foldl (State.beginFallback f p) s).tx.get l =
      { (s.tx.get l).beginning .fallback f p false [] with line := none, blanking := blanking } ∧
      ((s.tx.get l).line = none → blanking = (s.tx.get l).blanking) := by
  induction ls generalizing s with
  | nil => cases h
  | cons k ls ih =>
    obtain ⟨fresh, distinct⟩ := List.nodup_cons.1 distinct
    rw [List.foldl_cons]
    rcases List.mem_cons.1 h with rfl | h
    · refine ⟨((s.finishLine l).tx.get l).blanking, ?_, fun closed => ?_⟩
      · rw [State.beginFallbacks_tx_other f p fresh, State.beginFallback, State.beginOutgoingFrame_tx, Bank.get_set_self]
      · rw [State.finishLine, State.goOnLine_closed closed]
    · have ne : k ≠ l := fun same => fresh (same ▸ h)
      have stands : (s.beginFallback f p k).tx.get l = s.tx.get l := by
        rw [State.beginFallback, State.beginOutgoingFrame_tx, Bank.get_set_ne _ _ ne]
      have rest := ih distinct h (s.beginFallback f p k)
      rwa [stands] at rest

theorem State.beginFallbacks_countLaw {s : State} (h : s.CountLaw) (ls : List (Fin 8)) :
    (ls.foldl (State.beginFallback f p) s).CountLaw := by
  induction ls generalizing s with
  | nil => exact h
  | cons l ls ih => exact ih (State.beginOutgoingFrame_countLaw h ..)

end

/-- The lanes in turn begin frames where they did fall back as the reference frame began: none acts on another. -/
theorem State.lanesAtReferenceFrame (s : State) {ls : List (Fin 8)} (distinct : ls.Nodup) (u : State)
    (rx : u.rx = s.rx) (tx : ∀ l ∈ ls, u.tx.get l = s.tx.get l) :
    ls.foldl State.laneAtReferenceFrame u =
      (ls.filter s.fallsBack).foldl (State.beginFallback u.ref.format u.ref.phase) u := by
  induction ls generalizing u with
  | nil => rfl
  | cons l ls ih =>
    obtain ⟨fresh, distinct⟩ := List.nodup_cons.1 distinct
    have same : u.fallsBack l = s.fallsBack l := by
      simp only [State.fallsBack, rx, tx l List.mem_cons_self]
    rw [List.foldl_cons, State.laneAtReferenceFrame_eq, same]
    cases falls : s.fallsBack l with
    | false =>
      rw [List.filter_cons_of_neg (by simp [falls])]
      exact ih distinct u rx fun k hk => tx k (List.mem_cons_of_mem l hk)
    | true =>
      have frame : u.LanesOnly (u.beginFallback u.ref.format u.ref.phase l) := u.lanesOnly_beginOutgoingFrame ..
      rw [if_pos rfl, List.filter_cons_of_pos falls, List.foldl_cons, ih distinct _ (frame.rx.trans rx) ?_, frame.ref]
      intro k hk
      have ne : l ≠ k := fun same => fresh (same ▸ hk)
      rw [State.beginFallback, State.beginOutgoingFrame_tx, Bank.get_set_ne _ _ ne, tx k (List.mem_cons_of_mem l hk)]

/-! ### The frame start as a whole (R26, R28) -/

theorem State.completeInstant_idle {s : State} (h : s.ref.owed = false) : s.completeInstant = s := by
  simp [State.completeInstant, h]

theorem State.completeInstant_owed {s : State} (h : s.ref.owed = true) : s.completeInstant = s.workInstant 0 := by
  simp [State.completeInstant, h]

/-- An instant's work still to come is done at most once: none is owed after it. -/
theorem State.completeInstant_ref_settled (s : State) : s.completeInstant.ref = { s.ref with owed := false } := by
  cases owed : s.ref.owed with
  | false => rw [State.completeInstant_idle owed, ← owed]
  | true =>
    rw [State.completeInstant_owed owed]
    exact (State.instantWork_frame ..).ref

theorem State.completeInstant_frame (s : State) : s.completeInstant = { s with
    ref := { s.ref with owed := false }, table := s.completeInstant.table, attn := s.completeInstant.attn
    consoleOut := s.completeInstant.consoleOut } := by
  cases owed : s.ref.owed with
  | false => rw [State.completeInstant_idle owed, ← owed]
  | true =>
    rw [State.completeInstant_owed owed]
    exact (State.instantWork_frame ..).1

/-- The reference unit after a frame start: the frame begun, no instant's work owed (R26, R27, R29; log 10). -/
def RefUnit.begun (r : RefUnit) (now : Nat) : RefUnit := { r.beginFrame now with owed := false }

/-- The part as a reference frame's lanes find it: the instant's work done, the unit's frame begun, the console's switch
point made. -/
def State.referenceBegun (s : State) : State :=
  State.consoleSwitchPoint { s.completeInstant with ref := s.ref.begun s.now }

theorem State.referenceBegun_frame (s : State) : s.referenceBegun = { s with
    ref := s.ref.begun s.now, table := s.referenceBegun.table, attn := s.referenceBegun.attn
    consoleOut := s.completeInstant.consoleOut } := by
  have console : s.referenceBegun = _ := (State.tableOnly_consoleSwitchPoint _).1
  rw [console, s.completeInstant_frame]

/-- A frame start is the console's switch point and then a FALLBACK frame on each lane that falls back. -/
theorem State.beginReferenceFrame_eq (s : State) : s.beginReferenceFrame =
    ((List.finRange 8).filter s.fallsBack).foldl
      (State.beginFallback (s.ref.begun s.now).format (s.ref.begun s.now).phase) s.referenceBegun := by
  have begun : s.completeInstant.withRef (s.completeInstant.ref.beginFrame s.completeInstant.now) =
      { s.completeInstant with ref := s.ref.begun s.now } := by
    rw [State.completeInstant_ref_settled, State.completeInstant_now]
    rfl
  have frame := s.referenceBegun_frame
  unfold State.beginReferenceFrame
  dsimp only
  rw [begun, ← State.referenceBegun, State.lanesAtReferenceFrame s (List.nodup_finRange 8), frame]
  · rw [frame]
  · intro l _
    rw [frame]

theorem State.beginReferenceFrame_frame (s : State) : s.beginReferenceFrame = { s with
    ref := s.ref.begun s.now, tx := s.beginReferenceFrame.tx, table := s.beginReferenceFrame.table
    attn := s.beginReferenceFrame.attn, consoleOut := s.completeInstant.consoleOut } := by
  have lanes := State.lanesOnly_beginFallbacks (s.ref.begun s.now).format (s.ref.begun s.now).phase
    ((List.finRange 8).filter s.fallsBack) s.referenceBegun
  rw [← State.beginReferenceFrame_eq] at lanes
  rw [State.LanesOnly] at lanes
  rw [lanes, s.referenceBegun_frame]

@[simp] theorem State.beginReferenceFrame_ref (s : State) : s.beginReferenceFrame.ref = s.ref.begun s.now := by
  rw [State.beginReferenceFrame_frame]

theorem State.beginReferenceFrame_countLaw {s : State} (h : s.CountLaw) : s.beginReferenceFrame.CountLaw := by
  rw [State.beginReferenceFrame_eq]
  refine State.beginFallbacks_countLaw _ _ ?_ _
  exact State.settle_countLaw (s.keepsCounts_completeInstant.countLaw h) _

/-! ### The generator's frame start (R20, R21, R26; log 5) -/

/-- The next frame's phase: 0 after a change of format or an align request, else the successor (R26). -/
theorem RefUnit.nextPhase_eq (r : RefUnit) : r.nextPhase =
    if r.nextFormat ≠ r.format ∨ r.align = true then 0 else (r.phase + 1) % r.format.cadence := by
  unfold RefUnit.nextPhase Format.successor
  by_cases format : r.nextFormat = r.format <;> simp [format]

/-- The unit's fields after a frame start, written out by state. -/
theorem RefUnit.begun_eq (r : RefUnit) (now : Nat) :
    let f := match r.state with
      | .free => r.freeRun
      | .locked => r.candidate.getD r.format
      | .holdover => r.format
    let p := if f ≠ r.format ∨ r.align = true then 0 else (r.phase + 1) % r.format.cadence
    r.begun now = { r with
      format := f, phase := p, align := false, frameStart := now, emitted := 0, owed := false
      frameLength := match r.state with
        | .free => f.samples p * Config.unitsPerSample
        | .locked => r.lockedPeriod
        | .holdover => r.holdover
      pace := match r.state with
        | .free => f.nominal
        | .locked => r.lockedPeriod
        | .holdover => r.holdover } := by
  rw [RefUnit.begun, RefUnit.beginFrame, RefUnit.nextPhase_eq]
  rfl

theorem State.beginReferenceFrame_tx_of_fallsBack {s : State} {l : Fin 8} (h : s.fallsBack l = true) :
    ∃ blanking, s.beginReferenceFrame.tx.get l =
      { (s.tx.get l).beginning .fallback (s.ref.begun s.now).format (s.ref.begun s.now).phase false [] with
        line := none, blanking := blanking } ∧
      ((s.tx.get l).line = none → blanking = (s.tx.get l).blanking) := by
  have tx : s.referenceBegun.tx = s.tx := by rw [State.referenceBegun_frame]
  rw [State.beginReferenceFrame_eq, ← tx]
  exact State.beginFallbacks_tx _ _ ((List.nodup_finRange 8).filter _)
    (List.mem_filter.2 ⟨List.mem_finRange l, h⟩) s.referenceBegun

theorem State.beginReferenceFrame_tx_of_not_fallsBack {s : State} {l : Fin 8} (h : s.fallsBack l = false) :
    s.beginReferenceFrame.tx.get l = s.tx.get l := by
  have tx : s.referenceBegun.tx = s.tx := by rw [State.referenceBegun_frame]
  rw [State.beginReferenceFrame_eq, ← tx]
  exact State.beginFallbacks_tx_other _ _ (fun mem => by simp [h] at mem) s.referenceBegun

/-- The report of an event on the reference unit: one REFERENCE_CHANGE where it changed the state or the format (R28). -/
theorem State.reportReference_eq {before s : State} {changed : Bool}
    (h : (before.ref.state != s.ref.state || before.ref.format != s.ref.format) = changed) :
    State.reportReference before s = { s with attn := s.attn.reportIf changed .referenceChange } := by
  rw [State.reportReference, h]
  rfl

theorem exec_referenceFrameStart (s : State) : exec .referenceFrameStart s = execReferenceFrameStart s := rfl

/-- Settles O46: a frame start is the console's switch point and one FALLBACK frame on each lane that falls back, and
the generator's row is such a frame start outside LOCKED. -/
theorem referenceFramesBegin : Obligations.ReferenceFramesBegin := by
  refine ⟨fun s => ?_, fun s released => ⟨fun locked => ?_, fun generated => ?_⟩⟩
  · intro f p r lanes
    have begun : s.ref.begun s.now = r := s.ref.begun_eq s.now
    have fallsBack (l : Fin 8) : l ∈ lanes ↔ s.fallsBack l = true := by
      rw [List.mem_filter, and_iff_right (List.mem_finRange l)]
      rfl
    refine ⟨?lanes, ?unit, fun l hl => ?_, fun l hl => ?others, fun _ law => State.beginReferenceFrame_countLaw law, ?frame⟩
    case lanes =>
      rw [State.beginReferenceFrame_eq, State.referenceBegun, begun]
      rfl
    case unit => rw [State.beginReferenceFrame_ref, begun]
    case others => exact State.beginReferenceFrame_tx_of_not_fallsBack (Bool.eq_false_iff.2 (mt (fallsBack l).2 hl))
    case frame =>
      rw [← begun]
      exact s.beginReferenceFrame_frame
    obtain ⟨blanking, tx, unchanged⟩ := State.beginReferenceFrame_tx_of_fallsBack ((fallsBack l).1 hl)
    rw [begun] at tx
    rw [tx]
    exact ⟨rfl, unchanged⟩
  · rw [exec_referenceFrameStart, execReferenceFrameStart, State.running_released released, if_pos locked]
  · intro v changed
    rw [exec_referenceFrameStart, execReferenceFrameStart, State.running_released released, if_neg generated]
    have ref : v.ref = s.ref.begun (max s.now (s.ref.frameStart + s.ref.frameLength)) := State.beginReferenceFrame_ref _
    have reports : (s.ref.state != v.ref.state || s.ref.format != v.ref.format) = changed := by
      rw [ref, RefUnit.begun_eq]
      cases state : s.ref.state with
      | locked => exact absurd state generated
      | free => simp [changed, state, bne_comm]
      | holdover => simp [changed, state]
    change Host.Outcome.next (State.reportReference s v) = _
    rw [State.reportReference_eq reports]

end Sys2Proof.Machine
end

section
/-! The bounds of the blocks (R5, R16, R27, R32, R34, R46, R49, R117, R159, R167, R171): every operation keeps them, and so
does every step. -/

namespace Sys2Proof.Machine

/-- Each block that stands within its bounds before stands within them after. -/
def State.KeepsBounds (s t : State) : Prop :=
  (s.LanesSound → t.LanesSound) ∧ (s.console.Sound → t.console.Sound) ∧ (s.ref.Sound → t.ref.Sound) ∧
  (s.SettingsLaw → t.SettingsLaw) ∧ (s.port.Sound → t.port.Sound)

theorem State.KeepsBounds.refl (s : State) : s.KeepsBounds s := ⟨id, id, id, id, id⟩

theorem State.KeepsBounds.trans {s t u : State} (h : s.KeepsBounds t) (k : t.KeepsBounds u) : s.KeepsBounds u := by
  obtain ⟨lanes, console, ref, settings, port⟩ := h
  obtain ⟨lanes', console', ref', settings', port'⟩ := k
  exact ⟨lanes' ∘ lanes, console' ∘ console, ref' ∘ ref, settings' ∘ settings, port' ∘ port⟩

theorem State.keepsBounds_foldl {α : Type} {f : State → α → State} (h : ∀ (s : State) a, s.KeepsBounds (f s a))
    (xs : List α) (s : State) : s.KeepsBounds (xs.foldl f s) := by
  induction xs generalizing s with
  | nil => exact .refl s
  | cons a xs ih => exact (h s a).trans (ih _)

/-! ### One block changed -/

/-- Settings and port stand where only an event has acted; the other blocks' bounds are to be shown. -/
theorem State.EventOnly.keepsBounds {s t : State} (h : s.EventOnly t) (lanes : s.LanesSound → t.LanesSound)
    (console : s.console.Sound → t.console.Sound) (ref : s.ref.Sound → t.ref.Sound) : s.KeepsBounds t := by
  obtain ⟨_, _, gain, port, _, _, threshold, _⟩ := h
  exact ⟨lanes, console, ref, by rw [State.SettingsLaw, State.SettingsLaw, gain, threshold]; exact id,
    by rw [port]; exact id⟩

theorem State.TableOnly.keepsBounds {s t : State} (h : s.TableOnly t) : s.KeepsBounds t :=
  h.eventOnly.keepsBounds (by rw [State.LanesSound, State.LanesSound, h.rx]; exact id) (by rw [h.console]; exact id)
    (by rw [h.ref]; exact id)

theorem State.keepsBounds_elapse (s : State) (after : Nat) : s.KeepsBounds (s.elapse after) := .refl s
theorem State.keepsBounds_reach (s : State) (due : Nat) : s.KeepsBounds (s.reach due) := .refl s
theorem State.keepsBounds_setTx (s : State) (l : Fin 8) (x : LaneTx) : s.KeepsBounds (s.setTx l x) := .refl s

theorem State.keepsBounds_withRef {s : State} {r : RefUnit} (h : s.ref.Sound → r.Sound) : s.KeepsBounds (s.withRef r) :=
  ⟨id, id, h, id, id⟩

theorem State.keepsBounds_setRx {s : State} {l : Fin 8} {x : LaneRx} (h : (s.rx.get l).Sound → x.Sound) :
    s.KeepsBounds (s.setRx l x) := by
  refine ⟨fun sound k => ?_, id, id, id, id⟩
  rw [State.setRx_rx, Bank.get_set]
  split
  · exact h (sound l)
  · exact sound k

theorem State.keepsBounds_console {s : State} {c : ConsoleRx} (h : s.console.Sound → c.Sound) :
    s.KeepsBounds { s with console := c } := ⟨id, h, id, id, id⟩

theorem State.keepsBounds_port {s : State} {p : Port} (h : s.port.Sound → p.Sound) :
    s.KeepsBounds { s with port := p } := ⟨id, id, id, id, h⟩

/-- A reply held in place of another takes no part in the port's bounds. -/
theorem State.keepsBounds_answer (s : State) (c : Command) (r : Result) (data : List Byte) :
    s.KeepsBounds (s.answer c r data) := State.keepsBounds_port id

theorem State.keepsBounds_refuse (s : State) (c : Command) (r : Result) : s.KeepsBounds (s.refuse c r) :=
  s.keepsBounds_answer c r []

theorem State.keepsBounds_refuseFrame (s : State) (code : Byte) (r : Result) : s.KeepsBounds (s.refuseFrame code r) :=
  State.keepsBounds_port id

theorem State.keepsBounds_closePort (s : State) : s.KeepsBounds s.closePort :=
  State.keepsBounds_port fun _ => ⟨nofun, Nat.le_refl 0, Nat.zero_lt_succ 7, fun _ => ⟨rfl, rfl, rfl, rfl⟩⟩

/-! ### The port (R167, R168, R171) -/

/-- A frame in progress takes no byte beyond those it announces (R171). -/
theorem Port.sound_shift {p : Port} (h : p.Sound) (opened : p.opened = true) (b : Byte) :
    { p.shift b with bits := [] }.Sound := by
  obtain ⟨announced, -, -, -⟩ := h
  refine ⟨fun code n params frame => ?_, Nat.min_le_right .., Nat.zero_lt_succ 7, fun closed => absurd opened ?_⟩
  · change p.receive b = _ at frame
    unfold Port.receive at frame
    split at frame
    · cases frame
    · split at frame
      · next takes =>
        match old : p.frame, frame with
        | [], frame => cases frame
        | [_], frame => cases frame; exact Nat.zero_le _
        | _ :: m :: held, frame =>
          simp only [old, frameOpen, Bool.and_eq_true, decide_eq_true_eq] at takes
          cases frame
          simp only [List.append_eq, List.length_append, List.length_singleton]
          omega
      · exact announced code n params frame
  · rw [show p.opened = false from closed]
    decide

theorem Port.clock_opened (p : Port) (bit : Bool) : (p.clock bit).opened = p.opened := by
  unfold Port.clock
  split <;> rfl

theorem Port.sound_clock {p : Port} (h : p.Sound) (opened : p.opened = true) (bit : Bool) : (p.clock bit).Sound := by
  by_cases last : p.bits.length = 7
  · rw [Port.clock_last last]
    exact Port.sound_shift h opened _
  · rw [Port.clock_early last]
    obtain ⟨announced, shifted, bits, -⟩ := h
    refine ⟨announced, shifted, ?_, fun closed => absurd (opened.symm.trans closed) (by decide)⟩
    simp only [List.length_append, List.length_singleton]
    omega

theorem Port.sound_clocks {p : Port} (h : p.Sound) (opened : p.opened = true) (bits : List Bool) :
    (bits.foldl Port.clock p).Sound := by
  induction bits generalizing p with
  | nil => exact h
  | cons bit bits ih => exact ih (Port.sound_clock h opened bit) ((p.clock_opened bit).trans opened)

/-! ### Lines and outgoing frames: no bounded block takes part -/

theorem State.keepsBounds_goOnLine (s : State) (l : Fin 8) (draws : Option (List (Fin 4 × Fin 4))) :
    s.KeepsBounds (s.goOnLine l draws) := by
  obtain ⟨x, only, -⟩ := s.goOnLine_frame l draws
  exact (s.keepsBounds_setTx l x).trans only.keepsBounds

theorem State.keepsBounds_finishLines (s : State) : s.KeepsBounds s.finishLines :=
  State.keepsBounds_foldl (fun s l => s.keepsBounds_goOnLine l none) _ _

theorem State.keepsBounds_reachLine (s : State) (l : Fin 8) (line : LineReach) (flat : Bool) :
    s.KeepsBounds (s.reachLine l line flat) := (s.keepsBounds_setTx l _).trans (State.keepsBounds_goOnLine ..)

theorem State.keepsBounds_beginOutgoingFrame (s : State) (l : Fin 8) (m : TxMode) (f : Format) (p : Nat) (b : Bool)
    (st : List TakenPacket) : s.KeepsBounds (s.beginOutgoingFrame l m f p b st) := by
  obtain ⟨x, only, -⟩ := s.beginOutgoingFrame_frame l m f p b st
  exact (s.keepsBounds_goOnLine l none).trans ((State.keepsBounds_setTx _ l x).trans only.keepsBounds)

theorem State.keepsBounds_handedFrameStart (s : State) (l : Fin 8) : s.KeepsBounds (s.handedFrameStart l) := by
  unfold State.handedFrameStart
  dsimp only
  split
  · exact .refl s
  · exact (s.keepsBounds_setTx l _).trans (State.keepsBounds_beginOutgoingFrame ..)

/-! ### Instants (R27) -/

theorem State.keepsBounds_workInstant (s : State) (early : BitVec 64) : s.KeepsBounds (s.workInstant early) := by
  have settled : s.KeepsBounds (s.withRef { s.ref with owed := false }) := State.keepsBounds_withRef id
  have out (u : State) (bytes : List Byte) : u.KeepsBounds { u with consoleOut := bytes } := .refl u
  exact settled.trans ((out _ _).trans (State.instantWork_frame _ early).keepsBounds)

theorem State.keepsBounds_completeInstant (s : State) : s.KeepsBounds s.completeInstant := by
  unfold State.completeInstant
  split
  · exact s.keepsBounds_workInstant 0
  · exact .refl s

/-- An instant is emitted only where one is left. -/
theorem State.keepsBounds_emitInstant {s : State} (left : s.ref.instantLeft = true) : s.KeepsBounds s.emitInstant := by
  refine ⟨id, id, ?_, id, id⟩
  rintro ⟨phase, -, rest⟩
  exact ⟨phase, (s.ref.instantLeft_iff.1 left : s.ref.emitted < _), rest⟩

theorem State.keepsBounds_reachFallbackLine (s : State) (l : Fin 8) (line : LineReach) :
    s.KeepsBounds (s.reachFallbackLine l line) := by
  unfold State.reachFallbackLine
  dsimp only
  split
  · exact .refl s
  · split
    · exact s.keepsBounds_reachLine ..
    · split
      · next next =>
        have left : s.completeInstant.ref.instantLeft = true := by
          rw [State.completeInstant_ref_settled]
          exact (Bool.and_eq_true_iff.1 next).2
        exact s.keepsBounds_completeInstant.trans
          ((State.keepsBounds_emitInstant left).trans (State.keepsBounds_reachLine ..))
      · exact .refl s

/-! ### The reference unit (R5, R16, R22 to R27) -/

/-- What the unit's bounds ask of its lock count alone: 2 in LOCKED, below 2 elsewhere, 0 where there is no candidate. -/
def RefUnit.LockSound (r : RefUnit) : Prop :=
  (r.state = .locked → r.count = 2) ∧ (r.state ≠ .locked → r.count ≤ 1) ∧ (r.candidate = none ↔ r.count = 0)

theorem RefUnit.Sound.lockSound {r : RefUnit} (h : r.Sound) : r.LockSound := by
  obtain ⟨_, _, locked, below, none, _⟩ := h
  exact ⟨fun state => (locked state).1, below, none⟩

theorem RefUnit.nextPhase_lt (r : RefUnit) : r.nextPhase < r.nextFormat.cadence := by
  have positive : 0 < r.nextFormat.cadence := Nat.lt_of_le_of_lt (Nat.zero_le _) (r.nextFormat.successor_lt 0)
  unfold RefUnit.nextPhase
  split
  · exact positive
  · next same =>
    split
    · exact positive
    · rw [not_not.1 same]
      exact r.format.successor_lt r.phase

/-- A frame start sets phase, end and spacing, so that of the bounds before it only the lock count's are needed. -/
theorem RefUnit.sound_begun {r : RefUnit} (h : r.LockSound) (now : Nat) : (r.begun now).Sound := by
  obtain ⟨locked, below, none⟩ := h
  refine ⟨r.nextPhase_lt, Nat.zero_le _, fun (state : r.state = .locked) => ⟨locked state, ?_⟩, below, none,
    fun (state : r.state = .locked) => ?_, fun (state : r.state = .holdover) => ?_⟩
  · change r.candidate = some r.nextFormat
    cases candidate : r.candidate with
    | none => exact absurd (none.1 candidate) (by simp [locked state])
    | some f => simp [RefUnit.nextFormat, state, candidate]
  · simp [RefUnit.begun, RefUnit.beginFrame, RefUnit.lengthOf, RefUnit.paceOf, state]
  · simp [RefUnit.begun, RefUnit.beginFrame, RefUnit.lengthOf, RefUnit.paceOf, state]

theorem State.keepsBounds_beginReferenceFrame {s : State} {r : RefUnit} (h : s.ref.Sound → r.LockSound) :
    s.KeepsBounds (s.withRef r).beginReferenceFrame := by
  have event := (s.eventOnly_withRef r).trans (State.eventOnly_beginReferenceFrame _)
  have frame := (s.withRef r).beginReferenceFrame_frame
  refine event.keepsBounds ?_ ?_ fun sound => ?_
  · rw [State.LanesSound, State.LanesSound, frame]
    exact id
  · rw [frame]
    exact id
  · rw [State.beginReferenceFrame_ref]
    exact RefUnit.sound_begun (h sound) _

theorem State.keepsBounds_frameStart (s : State) : s.KeepsBounds s.beginReferenceFrame :=
  State.keepsBounds_beginReferenceFrame (s := s) (r := s.ref) RefUnit.Sound.lockSound

/-! The lock count, case by case (R22). -/

@[simp] theorem countLock_none (candidate : Option Format) (count : Nat) : countLock candidate count none = (none, 0) := rfl

@[simp] theorem countLock_same (f : Format) (count : Nat) :
    countLock (some f) count (some f) = (some f, count + 1) := by simp [countLock]

theorem countLock_other {candidate : Option Format} {f : Format} (h : candidate ≠ some f) (count : Nat) :
    countLock candidate count (some f) = (some f, 1) := by simp [countLock, h]

theorem countLock_none_iff (candidate : Option Format) (count : Nat) (cls : Option Format) :
    (countLock candidate count cls).1 = none ↔ (countLock candidate count cls).2 = 0 := by
  cases cls with
  | none => simp
  | some f =>
    by_cases same : candidate = some f
    · simp [same]
    · simp [countLock_other same]

/-- A lock count below 2 goes to 2 at most. -/
theorem countLock_le {count : Nat} (h : count ≤ 1) (candidate cls : Option Format) :
    (countLock candidate count cls).2 ≤ 2 := by
  cases cls with
  | none => exact Nat.zero_le _
  | some f =>
    by_cases same : candidate = some f
    · rw [same, countLock_same]
      exact Nat.succ_le_succ h
    · simp [countLock_other same]

/-- From no candidate one class counts to 1 at most. -/
theorem countLock_fresh_le (cls : Option Format) : (countLock none 0 cls).2 ≤ 1 := by
  cases cls with
  | none => simp
  | some f => simp [countLock_other (Option.some_ne_none f).symm]

theorem State.keepsBounds_sourceSwitchLine (s : State) (cls : Option (Option Format)) (period : Nat) :
    s.KeepsBounds (s.sourceSwitchLine cls period) := by
  unfold State.sourceSwitchLine
  dsimp only
  split
  · exact .refl s
  · exact State.keepsBounds_withRef id
  · next c state _ =>
    have counts := countLock_none_iff s.ref.candidate s.ref.count c
    split
    · next locks =>
      refine State.keepsBounds_beginReferenceFrame fun _ => ⟨fun _ => locks, fun other => absurd rfl other, counts⟩
    · next stays =>
      refine State.keepsBounds_withRef fun ⟨phase, emitted, _, below, _, _, holdover⟩ => ?_
      have atMost := countLock_le (below (by simp [state])) s.ref.candidate c
      have outside (locked : s.ref.state = .locked) {P : Prop} : P := absurd (state.symm.trans locked) (by decide)
      exact ⟨phase, emitted, fun locked => outside locked, fun _ => by simp only; omega, counts,
        fun locked => outside locked, holdover⟩
  · exact State.keepsBounds_beginReferenceFrame fun sound => sound.lockSound
  · next c state _ =>
    split
    · exact State.keepsBounds_beginReferenceFrame fun sound => sound.lockSound
    · exact State.keepsBounds_beginReferenceFrame fun _ =>
        ⟨nofun, fun _ => countLock_fresh_le c, countLock_none_iff none 0 c⟩

theorem State.keepsBounds_sourceLoss (s : State) : s.KeepsBounds s.sourceLoss := by
  unfold State.sourceLoss
  dsimp only
  split
  · exact .refl s
  · next state =>
    refine State.keepsBounds_withRef fun ⟨phase, emitted, _, _, _, _, holdover⟩ => ?_
    have outside (locked : s.ref.state = .locked) {P : Prop} : P := absurd (state.symm.trans locked) (by decide)
    exact ⟨phase, emitted, fun locked => outside locked, fun _ => Nat.zero_le _, ⟨fun _ => rfl, fun _ => rfl⟩,
      fun locked => outside locked, holdover⟩
  · exact State.keepsBounds_beginReferenceFrame fun _ => ⟨nofun, fun _ => Nat.zero_le _, ⟨fun _ => rfl, fun _ => rfl⟩⟩

theorem State.keepsBounds_endIfPassed (s : State) : s.KeepsBounds s.endIfPassed := by
  unfold State.endIfPassed
  split
  · exact s.keepsBounds_frameStart
  · exact .refl s

theorem State.keepsBounds_enterFree (s : State) : s.KeepsBounds s.enterFree := by
  unfold State.enterFree
  dsimp only
  refine State.KeepsBounds.trans (State.keepsBounds_withRef ?_) (State.keepsBounds_endIfPassed _)
  rintro ⟨phase, emitted, -⟩
  exact ⟨phase, emitted, nofun, fun _ => Nat.zero_le _, ⟨fun _ => rfl, fun _ => rfl⟩, nofun, nofun⟩

theorem State.keepsBounds_selectSource (s : State) (source : RefSource) (present : Bool) :
    s.KeepsBounds (s.selectSource source present) := by
  unfold State.selectSource
  dsimp only
  split
  · next state =>
    refine State.keepsBounds_withRef fun ⟨phase, emitted, _, _, _, _, holdover⟩ => ?_
    exact ⟨phase, emitted, nofun, fun _ => Nat.zero_le _, ⟨fun _ => rfl, fun _ => rfl⟩, nofun, fun _ => holdover state⟩
  · refine (State.keepsBounds_withRef fun ⟨phase, emitted, _⟩ => ?_).trans (State.keepsBounds_endIfPassed _)
    exact ⟨phase, emitted, nofun, fun _ => Nat.zero_le _, ⟨fun _ => rfl, fun _ => rfl⟩, nofun, fun _ => ⟨rfl, rfl⟩⟩
  · refine (State.keepsBounds_withRef fun ⟨phase, emitted, _⟩ => ?_).trans (State.keepsBounds_endIfPassed _)
    exact ⟨phase, emitted, nofun, fun _ => Nat.zero_le _, ⟨fun _ => rfl, fun _ => rfl⟩, nofun, fun _ => ⟨rfl, rfl⟩⟩

theorem State.keepsBounds_reportReference (before s : State) : s.KeepsBounds (State.reportReference before s) :=
  (s.tableOnly_reportIf _ _).keepsBounds

theorem State.keepsBounds_setReference (s : State) (source : RefSource) (f : Format) :
    s.KeepsBounds (s.setReference source f) := by
  have stored : s.KeepsBounds (s.withRef { s.ref with freeRun := f }) := State.keepsBounds_withRef id
  unfold State.setReference
  dsimp only
  refine State.KeepsBounds.trans ?_ (State.keepsBounds_reportReference ..)
  split
  · exact stored
  · split
    · exact stored.trans (State.keepsBounds_enterFree _)
    · exact stored.trans (State.keepsBounds_selectSource ..)

end Sys2Proof.Machine
end

section
/-! The bounds of the receivers (R32, R34, R36, R43, R46, R49), and every command and every step on all the blocks. -/

namespace Sys2Proof.Machine

/-! ### Lane groups (R36, R43, R46) -/

/-- A group's bounds in a receiver that is LOCKED. -/
def GroupRx.Sound (g : GroupRx) : Prop :=
  g.hysteresis ≤ 1 ∧ g.depth ≤ 16 ∧ (g.present = false → g.depth = 0)

theorem GroupRx.sound_absent (g : GroupRx) : g.absent.Sound := ⟨Nat.zero_le _, Nat.zero_le _, fun _ => rfl⟩

theorem GroupRx.Sound.classed {g : GroupRx} (h : g.Sound) : g.classed.Sound := by
  obtain ⟨hysteresis, depth, absent⟩ := h
  unfold GroupRx.classed
  split
  · split
    · exact ⟨Nat.zero_le _, depth, absent⟩
    · split
      · exact g.sound_absent
      · next below => exact ⟨Nat.lt_succ_iff.1 (Nat.not_le.1 below), depth, absent⟩
  · split
    · split
      · exact ⟨Nat.zero_le _, Nat.zero_le _, fun _ => rfl⟩
      · next below => exact ⟨Nat.lt_succ_iff.1 (Nat.not_le.1 below), depth, absent⟩
    · exact ⟨Nat.zero_le _, depth, absent⟩

theorem GroupRx.Sound.receive {g : GroupRx} {present : Bool} (h : g.Sound) (source : present = true → g.present = true)
    (set : Bank Sample 4) : (g.receive present set).Sound := by
  obtain ⟨hysteresis, depth, absent⟩ := h
  cases present with
  | false => exact ⟨hysteresis, depth, absent⟩
  | true =>
    refine ⟨hysteresis, Nat.min_le_right .., fun none => ?_⟩
    exact absurd ((source rfl).symm.trans none) (by decide)

/-! ### Lane receivers (R32 to R36, R44) -/

/-- A receiver outside LOCKED is within its bounds when it has no format and no arriving phase, its lock count is below 2
and every group is ABSENT. -/
theorem LaneRx.sound_unlocked {rx : LaneRx} (state : rx.state ≠ .locked) (format : rx.format = none)
    (phase : rx.arrivingPhase = none) (count : rx.count ≤ 1)
    (groups : ∀ g, (rx.groups.get g).present = false ∧ (rx.groups.get g).hysteresis = 0 ∧ (rx.groups.get g).depth = 0) :
    rx.Sound := by
  refine ⟨fun _ => ⟨format, phase⟩, fun locked => absurd locked state, Nat.le_succ_of_le count, fun _ => count,
    fun f p hf => ?_, fun g => ?_⟩
  · simp [format] at hf
  · obtain ⟨present, hysteresis, depth⟩ := groups g
    simp [present, hysteresis, depth]

/-- A LOCKED one when it has a format, its arriving phase is one of it, and every group is within its bounds. -/
theorem LaneRx.sound_locked {rx : LaneRx} {f : Format} (state : rx.state = .locked) (format : rx.format = some f)
    (phase : ∀ p, rx.arrivingPhase = some p → p < f.cadence) (count : rx.count ≤ 2)
    (groups : ∀ g, (rx.groups.get g).Sound) : rx.Sound := by
  refine ⟨fun other => absurd state other, fun _ => by simp [format], count, fun seeking => ?_, fun f' p hf hp => ?_,
    fun g => ?_⟩
  · simp [state] at seeking
  · rw [format] at hf
    cases hf
    exact phase p hp
  · obtain ⟨hysteresis, depth, absent⟩ := groups g
    exact ⟨hysteresis, depth, absent, fun other => absurd state other⟩

theorem LaneRx.Sound.group {rx : LaneRx} (h : rx.Sound) (g : Fin 4) : (rx.groups.get g).Sound := by
  obtain ⟨_, _, _, _, _, groups⟩ := h
  obtain ⟨hysteresis, depth, absent, _⟩ := groups g
  exact ⟨hysteresis, depth, absent⟩

theorem LaneRx.Sound.absent {rx : LaneRx} (h : rx.Sound) (state : rx.state ≠ .locked) (g : Fin 4) :
    (rx.groups.get g).present = false ∧ (rx.groups.get g).hysteresis = 0 ∧ (rx.groups.get g).depth = 0 := by
  obtain ⟨_, _, _, _, _, groups⟩ := h
  obtain ⟨_, _, depth, unlocked⟩ := groups g
  obtain ⟨present, hysteresis⟩ := unlocked state
  exact ⟨present, hysteresis, depth present⟩

theorem LaneRx.sound_reset : LaneRx.reset.Sound :=
  LaneRx.sound_unlocked nofun rfl rfl (Nat.zero_le _) fun g => by simp [LaneRx.reset, GroupRx.reset]

theorem LaneRx.Sound.atSwitchLine {rx : LaneRx} (h : rx.Sound) (now : Nat) (cls : Option Format) :
    (rx.atSwitchLine now cls).Sound := by
  obtain ⟨unlocked, locked, count, seeking, -, -⟩ := id h
  unfold LaneRx.atSwitchLine
  dsimp only
  split
  · next state =>
    exact LaneRx.sound_unlocked nofun rfl rfl (Nat.zero_le _) fun g => h.absent (by simp [state]) g
  · next state =>
    have outside : rx.state ≠ .locked := by simp [state]
    have atMost := countLock_le (seeking state) rx.candidate cls
    have candidate := countLock_none_iff rx.candidate rx.count cls
    split
    · next locks =>
      obtain ⟨f, hf⟩ := Option.ne_none_iff_exists'.1 (mt candidate.1 (by simp [locks]))
      refine LaneRx.sound_locked rfl hf nofun (Nat.le_of_eq locks) fun g => ?_
      rw [Bank.get_map]
      exact h.group g
    · next stays =>
      refine LaneRx.sound_unlocked outside (unlocked outside).1 rfl ?_ fun g => h.absent outside g
      simp only
      omega
  · next state =>
    split
    · obtain ⟨f, hf⟩ := Option.isSome_iff_exists.1 (locked state)
      refine LaneRx.sound_locked state hf nofun count fun g => ?_
      rw [Bank.get_map]
      exact (h.group g).classed
    · refine LaneRx.sound_unlocked nofun rfl rfl (countLock_fresh_le cls) fun g => ?_
      rw [Bank.get_map]
      exact ⟨rfl, rfl, rfl⟩

theorem LaneRx.Sound.lost {rx : LaneRx} (h : rx.Sound) : rx.lost.Sound := by
  refine LaneRx.sound_unlocked nofun rfl rfl (Nat.zero_le _) fun g => ?_
  unfold LaneRx.lost
  dsimp only
  split
  · rw [Bank.get_map]
    exact ⟨rfl, rfl, rfl⟩
  · next outside => exact h.absent outside g

/-- Groups changed one by one, with presence, hysteresis and bounds kept, leave the receiver within its bounds. -/
theorem LaneRx.Sound.of_groups {rx : LaneRx} (h : rx.Sound) {groups : Bank GroupRx 4}
    (same : ∀ g, (groups.get g).present = (rx.groups.get g).present ∧
      (groups.get g).hysteresis = (rx.groups.get g).hysteresis)
    (sound : ∀ g, (groups.get g).Sound) : { rx with groups := groups }.Sound := by
  obtain ⟨unlocked, locked, count, seeking, phase, -⟩ := id h
  refine ⟨unlocked, locked, count, seeking, phase, fun g => ?_⟩
  obtain ⟨hysteresis, depth, absent⟩ := sound g
  refine ⟨hysteresis, depth, absent, fun outside => ?_⟩
  obtain ⟨present, zero, -⟩ := h.absent outside g
  exact ⟨(same g).1.trans present, (same g).2.trans zero⟩

theorem LaneRx.Sound.damage {rx : LaneRx} (h : rx.Sound) (field : Option Byte) : (rx.damage field).Sound := by
  rw [LaneRx.damage_eq]
  refine h.of_groups (fun g => ?_) fun g => ?_
  · rw [Bank.get_ofFn]
    split <;> exact ⟨rfl, rfl⟩
  · rw [Bank.get_ofFn]
    split <;> exact h.group g

theorem LaneRx.Sound.putGroup {rx : LaneRx} (h : rx.Sound) {g : Fin 4} {group : GroupRx} (sound : group.Sound)
    (present : group.present = (rx.groups.get g).present) (hysteresis : group.hysteresis = (rx.groups.get g).hysteresis) :
    (rx.putGroup g group).Sound := by
  refine h.of_groups (fun k => ?_) fun k => ?_
  · rw [Bank.get_set]
    split
    · next same => exact same ▸ ⟨present, hysteresis⟩
    · exact ⟨rfl, rfl⟩
  · rw [Bank.get_set]
    split
    · exact sound
    · exact h.group k

/-- A valid packet's phase is one of the receiver's format; only a LOCKED receiver has one. -/
theorem LaneRx.Sound.noteValid {rx : LaneRx} (h : rx.Sound) (g : Fin 4) {p : Nat} {f : Format}
    (format : rx.format = some f) (valid : p < f.cadence) : (rx.noteValid g p).Sound := by
  obtain ⟨unlocked, -, count, -, phase, -⟩ := id h
  have state : rx.state = .locked := by
    by_contra outside
    simp [(unlocked outside).1] at format
  refine LaneRx.sound_locked state format (fun q hq => ?_) count fun k => ?_
  · cases Option.some.inj hq
    cases arriving : rx.arrivingPhase with
    | none => exact valid
    | some first => exact phase f first format arriving
  · simp only [LaneRx.noteValid, Bank.modify, Bank.get_set]
    split
    · exact h.group g
    · exact h.group k

/-! ### What a lane's events do to its receiver -/

theorem State.keepsBounds_changeRx {s : State} {l : Fin 8} {x : LaneRx} (h : (s.rx.get l).Sound → x.Sound) :
    s.KeepsBounds (s.changeRx l x) := (State.keepsBounds_setRx h).trans (s.tableOnly_changeRx l x).keepsBounds

theorem State.keepsBounds_laneSwitchLine (s : State) (l : Fin 8) (lines : Nat) :
    s.KeepsBounds (s.laneSwitchLine l lines) := by
  unfold State.laneSwitchLine
  dsimp only
  have received : s.KeepsBounds (s.changeRx l ((s.rx.get l).atSwitchLine s.now
      (classify lines (s.now - (s.rx.get l).lastLine)))) :=
    State.keepsBounds_changeRx fun sound => sound.atSwitchLine _ _
  have handed {u : State} (h : s.KeepsBounds u) {c : Prop} [Decidable c] (f : Option Format) :
      s.KeepsBounds (if c then u.hand l f else u) := by
    split
    · exact h.trans (u.keepsBounds_setTx l _)
    · exact h
  split
  · exact (handed received _).trans (State.keepsBounds_sourceSwitchLine ..)
  · exact handed received _

theorem State.keepsBounds_laneLoss (s : State) (l : Fin 8) : s.KeepsBounds (s.laneLoss l) := by
  unfold State.laneLoss
  dsimp only
  have cut := (State.keepsBounds_changeRx (s := s) (l := l) LaneRx.Sound.lost).trans
    (State.keepsBounds_setTx _ l ((s.changeRx l (s.rx.get l).lost).tx.get l).feedLost)
  split
  · exact cut.trans (State.keepsBounds_sourceLoss _)
  · exact cut

theorem State.keepsBounds_laneArrival (l : Fin 8) (g : Fin 4) (s : State) (set : Bank Sample 4) :
    s.KeepsBounds (State.laneArrival l g s set) := by
  cases present : (s.rx.get l).groupPresent g with
  | false =>
    rw [State.laneArrival_absent present]
    exact State.keepsBounds_setRx fun sound =>
      sound.putGroup ((sound.group g).receive (present := false) nofun set) rfl rfl
  | true =>
    rw [State.laneArrival_present present]
    have isPresent : ((s.rx.get l).groups.get g).present = true := (Bool.and_eq_true_iff.1 present).2
    refine (State.keepsBounds_setRx fun sound => ?_).trans (State.tableOnly_arrival ..).keepsBounds
    exact sound.putGroup ((sound.group g).receive (fun _ => isPresent) set) rfl rfl

theorem State.keepsBounds_takePacket (s : State) (l : Fin 8) (line : Nat) (p : Packet) :
    s.KeepsBounds (s.takePacket l line p) := by
  unfold State.takePacket
  dsimp only
  split
  · next g valid _ =>
    have noted : s.KeepsBounds (s.setRx l ((s.rx.get l).noteValid g p.phase.toNat)) :=
      State.keepsBounds_setRx fun sound => by
        obtain ⟨_, _, _, phase⟩ := (p.valid_iff _).1 valid
        cases format : (s.rx.get l).format with
        | none => simp [format] at phase
        | some f => exact sound.noteValid g format (by simpa [format] using phase)
    exact (noted.trans (State.keepsBounds_foldl (State.keepsBounds_laneArrival l g) _ _)).trans
      (State.keepsBounds_setTx ..)
  · exact State.keepsBounds_setRx fun sound => sound.damage _

/-! ### The console link receiver (R49) -/

theorem State.keepsBounds_takeConsoleFrame (s : State) (bytes : List Byte) : s.KeepsBounds (s.takeConsoleFrame bytes) := by
  unfold State.takeConsoleFrame
  dsimp only
  split
  · next up _ =>
    refine (State.keepsBounds_console fun ⟨_, _, _⟩ => ?_).trans (State.tableOnly_arrival ..).keepsBounds
    exact ⟨Nat.zero_le _, Nat.min_le_right .., fun down => absurd (up.symm.trans down) (by decide)⟩
  · split
    · refine (State.keepsBounds_console fun _ => ?_).trans (State.tableOnly_sourcesLost ..).keepsBounds
      exact ⟨Nat.zero_le _, Nat.zero_le _, fun _ => rfl⟩
    · next below =>
      exact State.keepsBounds_console fun ⟨count, depth, down⟩ => ⟨by simp only; omega, depth, down⟩
  · split
    · refine (State.keepsBounds_console fun _ => ?_).trans (State.tableOnly_sourcesBack ..).keepsBounds
      exact ⟨Nat.zero_le _, Nat.zero_le _, fun _ => rfl⟩
    · next below =>
      exact State.keepsBounds_console fun ⟨count, depth, down⟩ =>
        ⟨by simp only [ConsoleRx.write] at *; omega, depth, down⟩
  · exact State.keepsBounds_console fun ⟨_, depth, down⟩ => ⟨Nat.zero_le _, depth, down⟩

/-! ### The commands of the port -/

/-- A command that settles a table in place of the part's and answers. -/
theorem State.keepsBounds_settled (s : State) (tab : Table) (c : Command) (r : Result) (data : List Byte) :
    s.KeepsBounds ((State.settle s { s with table := tab }).answer c r data) :=
  ((s.tableOnly_with tab).trans (State.tableOnly_settle ..)).keepsBounds.trans (State.keepsBounds_answer ..)

theorem SetupRequest.clamped {params : List Byte} {r : SetupRequest} (h : readSetup params = some r) :
    r.rampLength ≤ 4096 ∧ r.threshold ≤ 256 := by
  unfold readSetup at h
  split at h
  · simp only [Option.bind_eq_bind, Option.bind_eq_some_iff, Option.pure_def, Option.some.injEq] at h
    obtain ⟨_, _, _, _, _, _, rfl⟩ := h
    exact ⟨Nat.min_le_right .., Nat.min_le_right ..⟩
  · cases h

theorem State.keepsBounds_settings {s : State} {g : GainStage} {a : Attention}
    (h : s.SettingsLaw → g.rampLength ≤ 4096 ∧ a.threshold ≤ 256) : s.KeepsBounds { s with gain := g, attn := a } :=
  ⟨id, id, id, h, id⟩

theorem State.keepsBounds_doSetup (s : State) (params : List Byte) : s.KeepsBounds (s.doSetup params) := by
  unfold State.doSetup
  split
  · exact s.keepsBounds_refuse ..
  · next read =>
    exact (State.keepsBounds_settings fun _ => SetupRequest.clamped read).trans (State.keepsBounds_answer ..)

theorem State.keepsBounds_doAttend (s : State) (params : List Byte) : s.KeepsBounds (s.doAttend params) := by
  unfold State.doAttend
  split
  · exact s.keepsBounds_refuse ..
  · exact (State.keepsBounds_settings id).trans (State.keepsBounds_answer ..)

theorem State.keepsBounds_doRestart (s : State) : s.KeepsBounds s.doRestart := by
  have emptied (u : State) : u.KeepsBounds { u with table := Table.reset, tx := u.tx.map LaneTx.restart } := .refl u
  have restarted (u : State) : u.KeepsBounds { u with gain := GainStage.reset, attn := Attention.reset } :=
    State.keepsBounds_settings fun _ => by decide
  have finished := s.keepsBounds_finishLines
  unfold State.doRestart
  generalize s.finishLines = u at finished ⊢
  exact finished.trans ((emptied u).trans ((restarted _).trans (State.keepsBounds_answer ..)))

theorem State.keepsBounds_doPurge (s : State) : s.KeepsBounds s.doPurge :=
  s.keepsBounds_finishLines.trans (State.KeepsBounds.trans
    ((State.tableOnly_with _ _).trans (State.tableOnly_reportTable ..)).keepsBounds (State.keepsBounds_answer ..))

theorem State.keepsBounds_doGuard (s : State) (params : List Byte) : s.KeepsBounds (s.doGuard params) := by
  unfold State.doGuard
  split
  · exact s.keepsBounds_refuse ..
  · split
    · exact s.keepsBounds_refuse ..
    · split
      · exact s.keepsBounds_refuse ..
      · exact (s.tableOnly_with _).keepsBounds.trans (State.keepsBounds_answer ..)

theorem State.keepsBounds_doLane (s : State) (params : List Byte) : s.KeepsBounds (s.doLane params) := by
  unfold State.doLane
  split
  · exact s.keepsBounds_refuse ..
  · split
    · exact s.keepsBounds_refuse ..
    · exact (s.keepsBounds_setTx _ _).trans ((State.tableOnly_settle ..).keepsBounds.trans (State.keepsBounds_answer ..))

theorem State.keepsBounds_doReference (s : State) (params : List Byte) : s.KeepsBounds (s.doReference params) := by
  unfold State.doReference
  split
  · exact s.keepsBounds_refuse ..
  · exact (s.keepsBounds_setReference _ _).trans (State.keepsBounds_answer ..)

/-- A command of the table answers, with the table settled or as it stands. -/
theorem State.keepsBounds_tableCommand (s : State) (c : Command) (params : List Byte)
    (h : c ∈ [Command.admitTrack, .find, .owner, .amend, .attach, .detach, .retire, .survey]) :
    s.KeepsBounds (s.perform c params) := by
  simp only [List.mem_cons, List.not_mem_nil, or_false] at h
  rcases h with rfl | rfl | rfl | rfl | rfl | rfl | rfl | rfl <;>
    simp only [State.perform, State.doAdmit, State.doFind, State.doOwner, State.doAmend, State.doAttach, State.doDetach,
      State.doRetire, State.doSurvey] <;>
    repeat' split
  all_goals first
    | exact s.keepsBounds_answer ..
    | exact s.keepsBounds_settled ..

theorem State.keepsBounds_perform (s : State) (c : Command) (params : List Byte) : s.KeepsBounds (s.perform c params) := by
  cases c with
  | identify | referenceQuery => exact s.keepsBounds_answer ..
  | restart => exact s.keepsBounds_doRestart
  | setup => exact s.keepsBounds_doSetup params
  | attend => exact s.keepsBounds_doAttend params
  | admitTrack | find | owner | amend | attach | detach | retire | survey =>
    exact s.keepsBounds_tableCommand _ params (by decide)
  | guard => exact s.keepsBounds_doGuard params
  | purge => exact s.keepsBounds_doPurge
  | lane => exact s.keepsBounds_doLane params
  | laneQuery =>
    simp only [State.perform, State.doLaneQuery]
    split <;> exact s.keepsBounds_answer ..
  | reference => exact s.keepsBounds_doReference params
  | align => exact (State.keepsBounds_withRef id).trans (State.keepsBounds_answer ..)

theorem State.keepsBounds_judgeFrame (s : State) (frame : List Byte) : s.KeepsBounds (s.judgeFrame frame) := by
  unfold State.judgeFrame
  split
  · exact .refl s
  · exact s.keepsBounds_refuseFrame ..
  · split
    · unfold State.executeFrame
      split
      · exact s.keepsBounds_refuseFrame ..
      · exact s.keepsBounds_perform ..
    · exact s.keepsBounds_refuseFrame ..

/-! ### Every command, every step -/

theorem State.keepsBounds_running {s t : State} {event : State → State} (h : s.KeepsBounds (event s))
    (ht : s.running event = .next t) : s.KeepsBounds t := by
  unfold State.running at ht
  split at ht
  · cases ht; exact .refl s
  · cases ht; exact h

/-- The row of a command of the port is a whole frame of it. -/
theorem exec_row (c : Command) (params : List Byte) (s : State) :
    exec (c.row params) s = s.running fun s => s.wholeFrame c params (State.perform c params) := by
  cases c <;> rfl

theorem State.keepsBounds_row {s t : State} (c : Command) (params : List Byte) (ht : exec (c.row params) s = .next t) :
    s.KeepsBounds t := by
  rw [exec_row] at ht
  refine State.keepsBounds_running ?_ ht
  unfold State.wholeFrame
  split
  · exact s.keepsBounds_closePort.trans (State.keepsBounds_refuse ..)
  · exact s.keepsBounds_closePort.trans (State.keepsBounds_perform ..)

theorem State.keepsBounds_reset (s : State) : s.KeepsBounds { State.reset with pending := s.pending } := by
  have settings : State.reset.SettingsLaw := ⟨by decide, by decide⟩
  refine ⟨fun _ l => ?_, fun _ => ?_, fun _ => ?_, fun _ => settings, fun _ => ?_⟩
  · change ((Bank.fill 8 LaneRx.reset).get l).Sound
    rw [Bank.get_fill]
    exact LaneRx.sound_reset
  · exact ⟨Nat.zero_le _, Nat.zero_le _, fun _ => rfl⟩
  · exact ⟨Nat.zero_lt_one, Nat.zero_le _, nofun, fun _ => Nat.zero_le _, ⟨fun _ => rfl, fun _ => rfl⟩, nofun,
      fun _ => ⟨rfl, rfl⟩⟩
  · exact ⟨nofun, Nat.le_refl 0, Nat.zero_lt_succ 7, fun _ => ⟨rfl, rfl, rfl, rfl⟩⟩

theorem exec_keepsBounds {s t : State} (c : Instr) (ht : exec c s = .next t) : s.KeepsBounds t := by
  cases c with
  | resetAsserted => cases ht; exact s.keepsBounds_closePort
  | resetReleased => cases ht; exact s.keepsBounds_reset
  | selectAsserted =>
    dsimp only [exec, execSelectAsserted] at ht
    refine State.keepsBounds_running (State.keepsBounds_port fun _ => ?_) ht
    exact ⟨nofun, Nat.zero_le _, Nat.zero_lt_succ 7, nofun⟩
  | selectReleased after bits =>
    dsimp only [exec, execSelectReleased] at ht
    refine State.keepsBounds_running ?_ ht
    split
    · exact (s.keepsBounds_elapse _).trans ((State.keepsBounds_closePort _).trans (State.keepsBounds_judgeFrame ..))
    · exact s.keepsBounds_elapse _
  | portByteShifted bits =>
    dsimp only [exec, execPortByteShifted] at ht
    refine State.keepsBounds_running ?_ ht
    split
    · next opened => exact State.keepsBounds_port fun sound => Port.sound_clocks sound opened bits
    · exact .refl s
  | identify params => exact State.keepsBounds_row .identify params ht
  | restart params => exact State.keepsBounds_row .restart params ht
  | setup params => exact State.keepsBounds_row .setup params ht
  | attend params => exact State.keepsBounds_row .attend params ht
  | admitTrack params => exact State.keepsBounds_row .admitTrack params ht
  | find params => exact State.keepsBounds_row .find params ht
  | owner params => exact State.keepsBounds_row .owner params ht
  | amend params => exact State.keepsBounds_row .amend params ht
  | attach params => exact State.keepsBounds_row .attach params ht
  | detach params => exact State.keepsBounds_row .detach params ht
  | retire params => exact State.keepsBounds_row .retire params ht
  | guard params => exact State.keepsBounds_row .guard params ht
  | survey params => exact State.keepsBounds_row .survey params ht
  | purge params => exact State.keepsBounds_row .purge params ht
  | lane params => exact State.keepsBounds_row .lane params ht
  | laneQuery params => exact State.keepsBounds_row .laneQuery params ht
  | reference params => exact State.keepsBounds_row .reference params ht
  | referenceQuery params => exact State.keepsBounds_row .referenceQuery params ht
  | align params => exact State.keepsBounds_row .align params ht
  | houseSwitchLine lines after =>
    dsimp only [exec, execHouseSwitchLine] at ht
    refine State.keepsBounds_running ?_ ht
    split
    · exact (s.keepsBounds_elapse _).trans ((State.keepsBounds_sourceSwitchLine ..).trans (State.keepsBounds_reportReference ..))
    · exact s.keepsBounds_elapse _
  | houseLost =>
    dsimp only [exec, execHouseLost] at ht
    refine State.keepsBounds_running ?_ ht
    split
    · exact (s.keepsBounds_reach _).trans ((State.keepsBounds_sourceLoss _).trans (State.keepsBounds_reportReference ..))
    · exact .refl s
  | referenceFrameStart =>
    dsimp only [exec, execReferenceFrameStart] at ht
    refine State.keepsBounds_running ?_ ht
    split
    · exact .refl s
    · exact (s.keepsBounds_reach _).trans ((State.keepsBounds_frameStart _).trans
        (State.keepsBounds_reportReference ..))
  | referenceSampleInstant early =>
    dsimp only [exec, execReferenceSampleInstant] at ht
    refine State.keepsBounds_running ?_ ht
    split
    · exact s.keepsBounds_workInstant early
    · split
      · next left => exact (State.keepsBounds_emitInstant left).trans (State.keepsBounds_workInstant _ early)
      · exact .refl s
  | rampReachesTarget label =>
    dsimp only [exec, execRampReachesTarget] at ht
    refine State.keepsBounds_running ?_ ht
    split
    · exact .refl s
    · split
      · exact (s.tableOnly_with _).keepsBounds
      · exact .refl s
  | consoleFrameTaken bytes =>
    dsimp only [exec, execConsoleFrameTaken] at ht
    exact State.keepsBounds_running (s.keepsBounds_takeConsoleFrame bytes) ht
  | laneSwitchLine l lines after =>
    dsimp only [exec, execLaneSwitchLine] at ht
    exact State.keepsBounds_running ((s.keepsBounds_elapse _).trans ((State.keepsBounds_laneSwitchLine _ l lines).trans
      (State.keepsBounds_reportReference ..))) ht
  | laneFeedLost l =>
    dsimp only [exec, execLaneFeedLost] at ht
    refine State.keepsBounds_running ?_ ht
    split
    · exact .refl s
    · exact (s.keepsBounds_reach _).trans ((State.keepsBounds_laneLoss _ l).trans (State.keepsBounds_reportReference ..))
  | packetTaken l line bytes =>
    dsimp only [exec, execPacketTaken] at ht
    refine State.keepsBounds_running ?_ ht
    split
    · exact s.keepsBounds_takePacket ..
    · exact .refl s
  | packetCutOff l line bytes =>
    dsimp only [exec, execPacketCutOff] at ht
    refine State.keepsBounds_running ?_ ht
    split
    · exact State.keepsBounds_setRx fun sound => sound.damage _
    · exact .refl s
  | countFieldDamaged l line bytes =>
    dsimp only [exec, execCountFieldDamaged] at ht
    refine State.keepsBounds_running ?_ ht
    split
    · exact State.keepsBounds_setRx fun sound => sound.damage _
    · exact .refl s
  | outgoingFrameStart l =>
    dsimp only [exec, execOutgoingFrameStart] at ht
    exact State.keepsBounds_running (s.keepsBounds_handedFrameStart l) ht
  | lineReached l line =>
    dsimp only [exec, execLineReached] at ht
    refine State.keepsBounds_running ?_ ht
    split
    · exact s.keepsBounds_goOnLine ..
    · split
      · exact s.keepsBounds_reachLine ..
      · exact s.keepsBounds_reachFallbackLine ..
  | flatLineReached l line =>
    dsimp only [exec, execFlatLineReached] at ht
    refine State.keepsBounds_running ?_ ht
    split
    · split
      · exact s.keepsBounds_goOnLine ..
      · exact s.keepsBounds_reachLine ..
    · exact .refl s

/-- Settles O60: each operation on a block keeps its bounds, and a step is made of such operations. -/
theorem stepsKeepTheBlocksInBounds : Obligations.StepsKeepTheBlocksInBounds := by
  intro s t stepped
  change s.KeepsBounds t
  unfold step at stepped
  split at stepped
  · cases stepped
    exact .refl s
  · next rest _ =>
    have queue : s.KeepsBounds { s with pending := rest } := .refl s
    exact queue.trans (exec_keepsBounds _ stepped)

end Sys2Proof.Machine
end

section
/-! Switch lines and losses of the selected source (spec 02 R17 to R28): what they make of the reference unit, said once
for HOUSE and for a lane. -/

namespace Sys2Proof.Machine

/-! ### The unit after each event -/

/-- The unit with a counted frame open on its source since `now` (R19). -/
def RefUnit.opened (r : RefUnit) (now : Nat) : RefUnit := { r with present := true, lastLine := now, counted := true }

/-- The unit whose source is lost, its lock count cleared (R22). -/
def RefUnit.gone (r : RefUnit) : RefUnit := { r with present := false, counted := false, candidate := none, count := 0 }

/-- The unit locked to format `f` at period `period` (R23). -/
def RefUnit.lockedTo (r : RefUnit) (f : Format) (period : Nat) : RefUnit := { r with
  state := .locked, candidate := some f, count := 2, lockedPeriod := period }

/-- The unit that has left LOCKED for HOLDOVER at the last locked period (R24, R25). -/
def RefUnit.heldOver (r : RefUnit) : RefUnit := { r with state := .holdover, holdover := r.lockedPeriod }

/-- The unit that one class has been counted of (R22, R24). -/
def RefUnit.counting (r : RefUnit) (cls : Option Format) : RefUnit := { r with
  candidate := cls, count := if cls.isSome then 1 else 0 }

/-- The phase of a next frame of format `f` (R26). -/
def RefUnit.phaseFor (r : RefUnit) (f : Format) : Nat :=
  if f ≠ r.format ∨ r.align = true then 0 else (r.phase + 1) % r.format.cadence

theorem RefUnit.begun_free {r : RefUnit} (state : r.state = .free) (now : Nat) : r.begun now = { r with
    format := r.freeRun, phase := r.phaseFor r.freeRun, align := false, frameStart := now
    frameLength := r.freeRun.samples (r.phaseFor r.freeRun) * Config.unitsPerSample, pace := r.freeRun.nominal
    emitted := 0, owed := false } := by
  rw [RefUnit.begun_eq, state]
  rfl

theorem RefUnit.begun_locked {r : RefUnit} (state : r.state = .locked) {f : Format} (candidate : r.candidate = some f)
    (now : Nat) : r.begun now = { r with
    format := f, phase := r.phaseFor f, align := false, frameStart := now, frameLength := r.lockedPeriod
    pace := r.lockedPeriod, emitted := 0, owed := false } := by
  rw [RefUnit.begun_eq, state, candidate]
  rfl

theorem RefUnit.begun_holdover {r : RefUnit} (state : r.state = .holdover) (now : Nat) : r.begun now = { r with
    phase := r.phaseFor r.format, align := false, frameStart := now, frameLength := r.holdover, pace := r.holdover
    emitted := 0, owed := false } := by
  rw [RefUnit.begun_eq, state]
  rfl

/-- A reference frame begun with the unit set to `r`, and its report. -/
def State.frameBegun (w : State) (r : RefUnit) (changed : Bool) : State :=
  let v := (w.withRef r).beginReferenceFrame
  { v with attn := v.attn.reportIf changed .referenceChange }

theorem State.frameBegun_ref (w : State) (r : RefUnit) (changed : Bool) :
    (w.frameBegun r changed).ref = r.begun w.now := by
  unfold State.frameBegun
  dsimp only
  rw [State.beginReferenceFrame_ref]
  rfl

/-- An event that sets the unit to `r` and begins a frame reports whether state or format then differ (R28). -/
theorem State.reportReference_begin {before w : State} {r : RefUnit} {changed : Bool}
    (h : (before.ref.state != (r.begun w.now).state || before.ref.format != (r.begun w.now).format) = changed) :
    State.reportReference before (w.withRef r).beginReferenceFrame = w.frameBegun r changed := by
  have ref : (w.withRef r).beginReferenceFrame.ref = r.begun w.now := State.beginReferenceFrame_ref _
  rw [← ref] at h
  rw [State.reportReference_eq h]
  rfl

/-- An event that leaves state and format reports nothing. -/
theorem State.reportReference_still {before w : State} {r : RefUnit} (state : r.state = before.ref.state)
    (format : r.format = before.ref.format) : State.reportReference before (w.withRef r) = w.withRef r := by
  have still : (before.ref.state != (w.withRef r).ref.state || before.ref.format != (w.withRef r).ref.format) = false := by
    simp [state, format]
  rw [State.reportReference_eq still]
  rfl

/-! ### A loss of the source (R22, R25) -/

section
variable {before w : State} {r : RefUnit} (found : before.ref = r) (unit : w.ref = r)
include found unit

theorem State.sourceLoss_clears (state : r.state = .holdover) :
    State.reportReference before w.sourceLoss = w.withRef r.gone := by
  subst unit
  have clears : w.sourceLoss = w.withRef w.ref.gone := by
    simp [State.sourceLoss, RefUnit.gone, state]
  rw [clears]
  exact State.reportReference_still (by rw [found]; rfl) (by rw [found]; rfl)

theorem State.sourceLoss_leaves (state : r.state = .locked) :
    State.reportReference before w.sourceLoss = w.frameBegun r.gone.heldOver true := by
  subst unit
  have leaves : w.sourceLoss = (w.withRef w.ref.gone.heldOver).beginReferenceFrame := by
    simp [State.sourceLoss, RefUnit.gone, RefUnit.heldOver, state]
  rw [leaves]
  apply State.reportReference_begin
  rw [found, state]
  rfl
/-! ### A switch line of the source (R17 to R19, R22 to R24) -/

variable {now : Nat} (clock : w.now = now)
include clock

/-- In HOLDOVER a switch line that ends no counted frame opens one. -/
theorem State.sourceSwitchLine_opens (state : r.state = .holdover) {cls : Option (Option Format)}
    (uncounted : r.counted = false ∨ cls = none) (period : Nat) :
    State.reportReference before (w.sourceSwitchLine cls period) = w.withRef (r.opened now) := by
  subst unit clock
  have none : (if w.ref.counted then cls else none) = none := by rcases uncounted with h | h <;> simp [h]
  have opens : w.sourceSwitchLine cls period = w.withRef (w.ref.opened w.now) := by
    simp [State.sourceSwitchLine, RefUnit.opened, state, none]
  rw [opens]
  exact State.reportReference_still (by rw [found]; rfl) (by rw [found]; rfl)

/-- In HOLDOVER one class counts, where it does not complete the lock. -/
theorem State.sourceSwitchLine_counts (state : r.state = .holdover) (counted : r.counted = true)
    {cls : Option Format} (h : ∀ f, cls = some f → r.candidate ≠ some f) (period : Nat) :
    State.reportReference before (w.sourceSwitchLine (some cls) period) =
      w.withRef ((r.opened now).counting cls) := by
  subst unit clock
  have lock : countLock w.ref.candidate w.ref.count cls = (cls, if cls.isSome then 1 else 0) := by
    cases cls with
    | none => rfl
    | some f => exact countLock_other (h f rfl) _
  have below : (if cls.isSome then 1 else 0) ≠ 2 := by split <;> decide
  have counts : w.sourceSwitchLine (some cls) period = w.withRef ((w.ref.opened w.now).counting cls) := by
    simp [State.sourceSwitchLine, RefUnit.opened, RefUnit.counting, state, counted, lock, below]
  rw [counts]
  exact State.reportReference_still (by rw [found]; rfl) (by rw [found]; rfl)

/-- In HOLDOVER the second frame of the candidate's class locks. -/
theorem State.sourceSwitchLine_locks (state : r.state = .holdover) (counted : r.counted = true) {f : Format}
    (candidate : r.candidate = some f) (count : r.count = 1) (period : Nat) :
    State.reportReference before (w.sourceSwitchLine (some (some f)) period) =
      w.frameBegun ((r.opened now).lockedTo f period) true := by
  subst unit clock
  have locks : w.sourceSwitchLine (some (some f)) period =
      (w.withRef ((w.ref.opened w.now).lockedTo f period)).beginReferenceFrame := by
    simp [State.sourceSwitchLine, RefUnit.opened, RefUnit.lockedTo, state, counted, candidate, count]
  rw [locks]
  apply State.reportReference_begin
  rw [found, state]
  rfl

/-- In LOCKED a frame of the locked format keeps the lock and sets the locked period. -/
theorem State.sourceSwitchLine_keeps (state : r.state = .locked) (counted : r.counted = true)
    (candidate : r.candidate = some r.format) (period : Nat) :
    State.reportReference before (w.sourceSwitchLine (some (some r.format)) period) =
      w.frameBegun { r.opened now with lockedPeriod := period } false := by
  subst unit clock
  have keeps : w.sourceSwitchLine (some (some w.ref.format)) period =
      (w.withRef { w.ref.opened w.now with lockedPeriod := period }).beginReferenceFrame := by
    simp [State.sourceSwitchLine, RefUnit.opened, RefUnit.nextFormat, state, counted, candidate]
  rw [keeps]
  apply State.reportReference_begin
  rw [RefUnit.begun_locked (by exact state) (by exact candidate), found]
  simp [RefUnit.opened]

/-- In LOCKED any other frame leaves for HOLDOVER. -/
theorem State.sourceSwitchLine_leaves (state : r.state = .locked) (counted : r.counted = true)
    (candidate : r.candidate = some r.format) {cls : Option Format} (other : cls ≠ some r.format)
    (period : Nat) : State.reportReference before (w.sourceSwitchLine (some cls) period) =
      w.frameBegun ((r.opened now).heldOver.counting cls) true := by
  subst unit clock
  have lock : countLock none 0 cls = (cls, if cls.isSome then 1 else 0) := by
    cases cls with
    | none => rfl
    | some f => exact countLock_other (Option.some_ne_none f).symm _
  have leaves : w.sourceSwitchLine (some cls) period =
      (w.withRef ((w.ref.opened w.now).heldOver.counting cls)).beginReferenceFrame := by
    simp [State.sourceSwitchLine, RefUnit.opened, RefUnit.nextFormat, RefUnit.heldOver, RefUnit.counting, state, counted,
      candidate, lock, other]
  rw [leaves]
  apply State.reportReference_begin
  rw [found, state]
  rfl
end

/-! ### The rows HOUSE_SWITCH_LINE and HOUSE_LOST -/

theorem exec_houseSwitchLine (lines after : Nat) (s : State) :
    exec (.houseSwitchLine lines after) s = execHouseSwitchLine lines after s := rfl

theorem exec_houseLost (s : State) : exec .houseLost s = execHouseLost s := rfl

section
variable {s : State} (released : s.resetHeld = false)
include released

theorem exec_houseSwitchLine_house (house : s.ref.source = .house) (lines after : Nat) :
    exec (.houseSwitchLine lines after) s = .next (State.reportReference (s.elapse after)
      ((s.elapse after).sourceSwitchLine (some (classify lines (s.now + after - s.ref.lastLine)))
        (s.now + after - s.ref.lastLine))) := by
  rw [exec_houseSwitchLine, execHouseSwitchLine, State.running_released released]
  simp [house]

theorem exec_houseLost_house (house : s.ref.source = .house) (present : s.ref.present = true) :
    exec .houseLost s =
      .next (State.reportReference s (s.reach (s.ref.lastLine + Config.lossTime)).sourceLoss) := by
  rw [exec_houseLost, execHouseLost, State.running_released released]
  simp [house, present]

theorem exec_house_other (other : s.ref.source ≠ .house) (lines after : Nat) :
    exec (.houseSwitchLine lines after) s = .next (s.elapse after) ∧ exec .houseLost s = .next s := by
  rw [exec_houseSwitchLine, execHouseSwitchLine, exec_houseLost, execHouseLost, State.running_released released,
    State.running_released released]
  simp [other]
end

/-- Settles O48: each case of the source's switch line and loss, on HOUSE. -/
theorem houseLinesMoveTheReference : Obligations.HouseLinesMoveTheReference := by
  intro s lines after released now period cls open' next begun
  have begunIs (now : Nat) (r : RefUnit) (changed : Bool) :
      begun now r changed = State.frameBegun { s with now := now } r changed := rfl
  have unit {now : Nat} {r u : RefUnit} {changed : Bool} (h : r.begun now = u) : (begun now r changed).ref = u := by
    rw [begunIs, State.frameBegun_ref]
    exact h
  have found : (s.elapse after).ref = s.ref := rfl
  have clock : (s.elapse after).now = now := rfl
  have lost : (s.reach (s.ref.lastLine + Config.lossTime)).ref = s.ref := rfl
  have line (house : s.ref.source = .house) : exec (.houseSwitchLine lines after) s =
      .next (State.reportReference (s.elapse after) ((s.elapse after).sourceSwitchLine (some cls) period)) :=
    exec_houseSwitchLine_house released house lines after
  refine ⟨fun other => exec_house_other released other lines after, fun house state counted => ?opens,
    fun house state counted => ⟨fun unrecognised => ?none, fun f one other => ?one,
      fun f one candidate count => ⟨?locks, ?lockedUnit⟩⟩,
    fun house state counted candidate => ⟨fun kept => ⟨?keeps, ?keptUnit⟩, fun other => ⟨?leaves, ?leftUnit⟩⟩,
    fun house present => ⟨fun state => ?clears, fun state => ⟨?loses, ?lostUnit⟩⟩⟩
  case opens =>
    rw [line house, State.sourceSwitchLine_opens found found clock state (.inl counted)]
    rfl
  case none =>
    rw [line house, unrecognised, State.sourceSwitchLine_counts (cls := none) found found clock state counted nofun]
    rfl
  case one =>
    rw [line house, one, State.sourceSwitchLine_counts found found clock state counted (by rintro _ ⟨⟩; exact other)]
    rfl
  case locks =>
    rw [line house, one, State.sourceSwitchLine_locks found found clock state counted candidate count, begunIs]
    rfl
  case lockedUnit => exact unit (RefUnit.begun_locked rfl rfl _)
  case keeps =>
    rw [line house, kept, State.sourceSwitchLine_keeps found found clock state counted candidate]
    rfl
  case keptUnit => exact unit (RefUnit.begun_locked (r := { open' with lockedPeriod := period }) state candidate _)
  case leaves =>
    rw [line house, State.sourceSwitchLine_leaves found found clock state counted candidate other]
    rfl
  case leftUnit => exact unit (RefUnit.begun_holdover rfl _)
  case clears =>
    rw [exec_houseLost_house released house present, State.sourceLoss_clears (Eq.refl s.ref) lost state]
    rfl
  case loses =>
    rw [exec_houseLost_house released house present, State.sourceLoss_leaves (Eq.refl s.ref) lost state]
    rfl
  case lostUnit => exact unit (RefUnit.begun_holdover rfl _)

end Sys2Proof.Machine
end

section
/-! Switch lines and losses of a lane, with the reference unit's part told apart from the receiver's and the
transmitter's (spec 02 R18; log 6). -/

namespace Sys2Proof.Machine

/-! ### A receiver's change reads nothing of the reference unit -/

theorem State.groupChange_withRef (rx : LaneRx) (l : Fin 8) (s : State) (r : RefUnit) (g : Fin 4) :
    State.groupChange rx l (s.withRef r) g = (State.groupChange rx l s g).withRef r := by
  unfold State.groupChange
  rw [State.withRef_rx]
  split <;> rfl

theorem State.groupChanges_withRef (rx : LaneRx) (l : Fin 8) (gs : List (Fin 4)) (s : State) (r : RefUnit) :
    gs.foldl (State.groupChange rx l) (s.withRef r) = (gs.foldl (State.groupChange rx l) s).withRef r := by
  induction gs generalizing s with
  | nil => rfl
  | cons g gs ih => rw [List.foldl_cons, State.groupChange_withRef, ih, List.foldl_cons]

theorem State.changeRx_withRef (s : State) (r : RefUnit) (l : Fin 8) (x : LaneRx) :
    (s.withRef r).changeRx l x = (s.changeRx l x).withRef r := by
  have changes := State.groupChanges_withRef (s.rx.get l) l [0, 1, 2, 3] (s.setRx l x) r
  exact congrArg (State.reportIf · ((s.rx.get l).changed x) .laneChange) changes

/-! ### What receiver and transmitter do at the lane's lines (R33 to R37) -/

/-- The part after the receiver and the transmitter of lane `l` have acted at a switch line. -/
def State.lineReceived (s : State) (l : Fin 8) (lines : Nat) : State :=
  let rx := s.rx.get l
  let received := s.changeRx l (rx.atSwitchLine s.now (classify lines (s.now - rx.lastLine)))
  if rx.state = .locked then received.hand l (received.rx.get l).format else received

/-- The part after the receiver and the transmitter of lane `l` have lost the feed. -/
def State.feedCut (s : State) (l : Fin 8) : State :=
  let received := s.changeRx l (s.rx.get l).lost
  received.setTx l (received.tx.get l).feedLost

theorem State.laneSwitchLine_eq (s : State) (l : Fin 8) (lines : Nat) : s.laneSwitchLine l lines =
    if s.ref.source = .lane l then (s.lineReceived l lines).sourceSwitchLine
      ((s.rx.get l).classOf lines (s.now - (s.rx.get l).lastLine)) (s.now - (s.rx.get l).lastLine)
    else s.lineReceived l lines := rfl

theorem State.laneLoss_eq (s : State) (l : Fin 8) : s.laneLoss l =
    if s.ref.source = .lane l then (s.feedCut l).sourceLoss else s.feedCut l := rfl

section
variable (s : State) (l : Fin 8) (lines : Nat)

theorem State.lineReceived_withRef (r : RefUnit) :
    (s.withRef r).lineReceived l lines = (s.lineReceived l lines).withRef r := by
  unfold State.lineReceived
  dsimp only [State.withRef_rx, State.withRef_now]
  rw [State.changeRx_withRef]
  split <;> rfl

theorem State.feedCut_withRef (r : RefUnit) : (s.withRef r).feedCut l = (s.feedCut l).withRef r := by
  unfold State.feedCut
  dsimp only [State.withRef_rx]
  rw [State.changeRx_withRef]
  rfl

@[simp] theorem State.lineReceived_ref : (s.lineReceived l lines).ref = s.ref := by
  unfold State.lineReceived
  dsimp only
  split <;> exact (s.tableOnly_changeRx l _).ref

@[simp] theorem State.lineReceived_now : (s.lineReceived l lines).now = s.now := by
  unfold State.lineReceived
  dsimp only
  split <;> exact (s.tableOnly_changeRx l _).now

@[simp] theorem State.feedCut_ref : (s.feedCut l).ref = s.ref := (s.tableOnly_changeRx l _).ref

@[simp] theorem State.feedCut_now : (s.feedCut l).now = s.now := (s.tableOnly_changeRx l _).now
end

/-- The part as a loss of lane `l`'s feed leaves its receiver and its transmitter, the clock at the loss. -/
def State.laneCut (s : State) (l : Fin 8) : State := (s.reach ((s.rx.get l).lastLine + Config.lossTime)).feedCut l

theorem State.laneCut_ref (s : State) (l : Fin 8) : (s.laneCut l).ref = s.ref := State.feedCut_ref ..

/-! ### The rows LANE_SWITCH_LINE and LANE_FEED_LOST -/

/-- An event that leaves the reference unit reports nothing of it. -/
theorem State.reportReference_same {before s : State} (h : s.ref = before.ref) : State.reportReference before s = s := by
  rw [State.reportReference_eq (changed := false) (by simp [h])]
  rfl

theorem exec_laneSwitchLine (l : Fin 8) (lines after : Nat) (s : State) :
    exec (.laneSwitchLine l lines after) s = execLaneSwitchLine l lines after s := rfl

theorem exec_laneFeedLost (l : Fin 8) (s : State) : exec (.laneFeedLost l) s = execLaneFeedLost l s := rfl

section
variable {s : State} (released : s.resetHeld = false) {l : Fin 8}
include released

theorem exec_laneSwitchLine_other (other : s.ref.source ≠ .lane l) (lines after : Nat) :
    exec (.laneSwitchLine l lines after) s = .next ((s.elapse after).lineReceived l lines) := by
  rw [exec_laneSwitchLine, execLaneSwitchLine, State.running_released released]
  dsimp only
  rw [State.laneSwitchLine_eq, State.elapse_ref, if_neg other, State.reportReference_same (State.lineReceived_ref ..)]

theorem exec_laneSwitchLine_source (source : s.ref.source = .lane l) (lines after : Nat) :
    let period := s.now + after - (s.rx.get l).lastLine
    exec (.laneSwitchLine l lines after) s = .next (State.reportReference (s.elapse after)
      (((s.elapse after).lineReceived l lines).sourceSwitchLine ((s.rx.get l).classOf lines period) period)) := by
  intro period
  rw [exec_laneSwitchLine, execLaneSwitchLine, State.running_released released]
  dsimp only
  rw [State.laneSwitchLine_eq, State.elapse_ref, if_pos source]
  rfl

theorem exec_laneFeedLost_other (other : s.ref.source ≠ .lane l) (feed : (s.rx.get l).state ≠ .noSignal) :
    exec (.laneFeedLost l) s = .next (s.laneCut l) := by
  rw [exec_laneFeedLost, execLaneFeedLost, State.running_released released, if_neg feed, State.laneLoss_eq,
    State.reach_ref, if_neg other, ← State.laneCut, State.reportReference_same (s.laneCut_ref l)]

theorem exec_laneFeedLost_source (source : s.ref.source = .lane l) (feed : (s.rx.get l).state ≠ .noSignal) :
    exec (.laneFeedLost l) s = .next (State.reportReference s (s.laneCut l).sourceLoss) := by
  rw [exec_laneFeedLost, execLaneFeedLost, State.running_released released, if_neg feed, State.laneLoss_eq,
    State.reach_ref, if_pos source, ← State.laneCut]

theorem exec_laneFeedLost_none (feed : (s.rx.get l).state = .noSignal) : exec (.laneFeedLost l) s = .next s := by
  rw [exec_laneFeedLost, execLaneFeedLost, State.running_released released, if_pos feed]
end

/-- Settles O36: the receiver and the transmitter act alike whatever source is selected, and then the unit moves as at
a line of any source. -/
theorem laneLinesMoveTheReference : Obligations.LaneLinesMoveTheReference := by
  intro s l lines after released
  refine ⟨fun other => ⟨⟨_, exec_laneSwitchLine_other released other lines after, State.lineReceived_ref ..⟩, ?_⟩,
    fun source => ?_⟩
  · by_cases feed : (s.rx.get l).state = .noSignal
    · exact ⟨s, exec_laneFeedLost_none released feed, rfl⟩
    · exact ⟨_, exec_laneFeedLost_other released other feed, s.laneCut_ref l⟩
  intro rx now period cls open' gone next begun elsewhere
  have begunIs (w : State) (r : RefUnit) (changed : Bool) : begun w r changed = w.frameBegun r changed := rfl
  have unit {w : State} {now : Nat} {r u : RefUnit} {changed : Bool} (clock : w.now = now) (h : r.begun now = u) :
      (begun w r changed).ref = u := by
    rw [begunIs, State.frameBegun_ref, clock]
    exact h
  have away : elsewhere.ref.source ≠ .lane l := nofun
  refine ⟨⟨(s.elapse after).lineReceived l lines, ?elsewhere, State.lineReceived_ref .., fun state idle => ?opens,
    fun state counted signal => ⟨fun unrecognised => ?none, fun f one other => ?one,
      fun f one candidate count => ⟨?locks, ?lockedUnit⟩⟩,
    fun state counted signal candidate => ⟨fun kept => ⟨?keeps, ?keptUnit⟩, fun other => ⟨?leaves, ?leftUnit⟩⟩⟩,
    fun feed => ⟨s.laneCut l, ?cutElsewhere, s.laneCut_ref l, fun state => ?clears, fun state => ⟨?loses, ?lostUnit⟩⟩⟩
  case elsewhere =>
    rw [exec_laneSwitchLine_other (s := elsewhere) released away]
    exact congrArg Host.Outcome.next ((s.elapse after).lineReceived_withRef l lines elsewhere.ref)
  case cutElsewhere =>
    rw [exec_laneFeedLost_other (s := elsewhere) released away feed]
    exact congrArg Host.Outcome.next
      (State.feedCut_withRef (s.reach ((s.rx.get l).lastLine + Config.lossTime)) l elsewhere.ref)
  case clears =>
    rw [exec_laneFeedLost_source released source feed,
      State.sourceLoss_clears (Eq.refl s.ref) (s.laneCut_ref l) state]
    rfl
  case loses =>
    rw [exec_laneFeedLost_source released source feed,
      State.sourceLoss_leaves (Eq.refl s.ref) (s.laneCut_ref l) state, begunIs]
    rfl
  case lostUnit => exact unit rfl (RefUnit.begun_holdover rfl _)
  all_goals
    have found : (s.elapse after).ref = s.ref := rfl
    have ref : ((s.elapse after).lineReceived l lines).ref = s.ref := State.lineReceived_ref ..
    have clock : ((s.elapse after).lineReceived l lines).now = now := State.lineReceived_now ..
    have line : exec (.laneSwitchLine l lines after) s = .next (State.reportReference (s.elapse after)
      (((s.elapse after).lineReceived l lines).sourceSwitchLine (rx.classOf lines period) period)) :=
      exec_laneSwitchLine_source released source lines after
    have ended (signal : rx.state ≠ .noSignal) : rx.classOf lines period = some cls := if_neg signal
  case opens =>
    have uncounted : s.ref.counted = false ∨ rx.classOf lines period = none := idle.imp_right fun first => if_pos first
    rw [line, State.sourceSwitchLine_opens found ref clock state uncounted]
    rfl
  case none =>
    rw [line, ended signal, unrecognised, State.sourceSwitchLine_counts (cls := none) found ref clock state counted nofun]
    rfl
  case one =>
    rw [line, ended signal, one,
      State.sourceSwitchLine_counts found ref clock state counted (by rintro _ ⟨⟩; exact other)]
    rfl
  case locks =>
    rw [line, ended signal, one, State.sourceSwitchLine_locks found ref clock state counted candidate count, begunIs]
    rfl
  case lockedUnit => exact unit clock (RefUnit.begun_locked rfl rfl _)
  case keeps =>
    rw [line, ended signal, kept, State.sourceSwitchLine_keeps found ref clock state counted candidate]
    rfl
  case keptUnit =>
    exact unit clock (RefUnit.begun_locked (r := { open' with lockedPeriod := period }) state candidate _)
  case leaves =>
    rw [line, ended signal, State.sourceSwitchLine_leaves found ref clock state counted candidate other]
    rfl
  case leftUnit => exact unit clock (RefUnit.begun_holdover rfl _)

end Sys2Proof.Machine
end

section
/-! REFERENCE (spec 02 R20, R21, R30): the source selected, the end of the frame in progress, and the reply, in which the
port takes no part. -/

namespace Sys2Proof.Machine

/-! ### A reference frame start reads nothing of the port -/

/-- A port in place of the part's. -/
def State.withPort (s : State) (p : Port) : State := { s with port := p }

section
variable (s : State) (p : Port)

theorem State.draw_withPort (d : Dest) (w : WordLength) :
    (s.withPort p).draw d w = ((s.draw d w).1, (s.draw d w).2.withPort p) := by
  have table : (s.withPort p).table = s.table := rfl
  unfold State.draw
  rw [table]
  cases s.table.owning d <;> rfl

theorem State.draws_withPort (w : WordLength) (ds : List Dest) :
    (s.withPort p).draws w ds = ((s.draws w ds).1, (s.draws w ds).2.withPort p) := by
  induction ds generalizing s with
  | nil => rfl
  | cons d ds ih => simp only [State.draws, State.draw_withPort, ih]

theorem State.drawPackets_withPort (l : Fin 8) (ps : List OpenPacket) :
    (s.withPort p).drawPackets l ps = ((s.drawPackets l ps).1, (s.drawPackets l ps).2.withPort p) := by
  induction ps generalizing s with
  | nil => rfl
  | cons q ps ih => simp only [State.drawPackets, State.drawLeft, State.draws_withPort, ih]

theorem State.finishLine_withPort (l : Fin 8) : (s.withPort p).finishLine l = (s.finishLine l).withPort p := by
  have tx : (s.withPort p).tx = s.tx := rfl
  unfold State.finishLine
  cases line : (s.tx.get l).line with
  | none => rw [State.goOnLine_closed line, State.goOnLine_closed (by rw [tx, line])]
  | some open' =>
    rw [State.goOnLine_whole line, State.goOnLine_whole (by rw [tx, line]), State.drawPackets_withPort, tx]
    rfl

theorem State.beginFallback_withPort (f : Format) (n : Nat) (l : Fin 8) :
    (s.withPort p).beginFallback f n l = (s.beginFallback f n l).withPort p := by
  unfold State.beginFallback
  rw [State.beginOutgoingFrame_eq, State.beginOutgoingFrame_eq, State.finishLine_withPort]
  rfl

theorem State.beginFallbacks_withPort (f : Format) (n : Nat) (ls : List (Fin 8)) :
    ls.foldl (State.beginFallback f n) (s.withPort p) = (ls.foldl (State.beginFallback f n) s).withPort p := by
  induction ls generalizing s with
  | nil => rfl
  | cons l ls ih => rw [List.foldl_cons, State.beginFallback_withPort, ih, List.foldl_cons]

theorem State.instantWork_withPort (early : BitVec 64) :
    (s.withPort p).instantWork early = (s.instantWork early).withPort p := by
  have stepped (u : State) : (u.withPort p).mapTracks Track.stepRamp = (u.mapTracks Track.stepRamp).withPort p := rfl
  simp only [State.instantWork, State.draws_withPort, stepped]
  rfl

theorem State.completeInstant_withPort : (s.withPort p).completeInstant = s.completeInstant.withPort p := by
  cases owed : s.ref.owed with
  | false => rw [State.completeInstant_idle owed, State.completeInstant_idle (by exact owed)]
  | true =>
    rw [State.completeInstant_owed owed, State.completeInstant_owed (by exact owed)]
    exact State.instantWork_withPort (s.withRef { s.ref with owed := false }) p 0

theorem State.beginReferenceFrame_withPort :
    (s.withPort p).beginReferenceFrame = s.beginReferenceFrame.withPort p := by
  have begun : (s.withPort p).referenceBegun = s.referenceBegun.withPort p := by
    unfold State.referenceBegun
    rw [State.completeInstant_withPort]
    rfl
  rw [State.beginReferenceFrame_eq, State.beginReferenceFrame_eq, begun, State.beginFallbacks_withPort]
  rfl

end

/-! ### What REFERENCE makes of the unit (R20, R21, R30) -/

/-- The unit that selecting FREE leaves, its frame in progress ending at the period in force (R20). -/
def RefUnit.freed (r : RefUnit) : RefUnit := { r with
  source := .free, state := .free, candidate := none, count := 0, counted := false
  frameLength := if r.state = .locked then r.lockedPeriod else r.frameLength }

/-- The holdover period that selecting HOUSE or a lane leaves (R21). -/
def RefUnit.holdoverPeriod (r : RefUnit) : Nat :=
  match r.state with
  | .holdover => r.holdover
  | .locked => r.lockedPeriod
  | .free => r.format.nominal

/-- The unit that selecting HOUSE or a lane leaves: in HOLDOVER, where it was not in it already at the period the state
gives, the frame in progress ending at it and its instants spaced by it (R21, R27). -/
def RefUnit.selecting (r : RefUnit) (src : RefSource) (now : Nat) (present : Bool) : RefUnit := { r with
  source := src, state := .holdover, candidate := none, count := 0, counted := false, present := present
  lastLine := now, holdover := r.holdoverPeriod
  frameLength := if r.state = .holdover then r.frameLength else r.holdoverPeriod
  pace := if r.state = .holdover then r.pace else r.holdoverPeriod }

/-- The unit as REFERENCE sets it, before an end of the frame in progress that has passed. -/
def RefUnit.reselected (r : RefUnit) (src : RefSource) (f : Format) (now : Nat) (present : Bool) : RefUnit :=
  { if src = r.source then r else if src = .free then r.freed else r.selecting src now present with freeRun := f }

theorem State.selectSource_eq (s : State) (src : RefSource) (present : Bool) : s.selectSource src present =
    let u := s.withRef (s.ref.selecting src s.now present)
    if s.ref.state = .holdover then u else u.endIfPassed := by
  cases state : s.ref.state <;> simp [State.selectSource, RefUnit.selecting, RefUnit.holdoverPeriod, RefUnit.holdAt, state]

/-- The frame in progress ends inside the command where the source changes, the generator's end for it changes with it
(it does not from HOLDOVER to HOLDOVER) and has passed. -/
theorem State.setReference_eq (s : State) (src : RefSource) (f : Format) :
    let r := s.ref.reselected src f s.now (s.refSourcePresent src)
    s.setReference src f = State.reportReference s
      (if src ≠ s.ref.source ∧ (src = .free ∨ s.ref.state ≠ .holdover) ∧ r.frameStart + r.frameLength ≤ s.now
        then (s.withRef r).beginReferenceFrame else s.withRef r) := by
  intro r
  have ends : (s.withRef r).endIfPassed =
      if r.frameStart + r.frameLength ≤ s.now then (s.withRef r).beginReferenceFrame else s.withRef r := rfl
  refine congrArg (State.reportReference s) ?_
  by_cases kept : src = s.ref.source
  · have same : r = { s.ref with freeRun := f } := by simp [r, RefUnit.reselected, kept]
    simp [kept, same]
  · rw [if_neg kept]
    by_cases free : src = .free
    · have freed : State.enterFree (s.withRef { s.ref with freeRun := f }) = (s.withRef r).endIfPassed := by
        simp only [r, RefUnit.reselected, if_neg kept, if_pos free]
        rfl
      have condition (passed : Prop) : (src ≠ s.ref.source ∧ (src = .free ∨ s.ref.state ≠ .holdover) ∧ passed) ↔ passed :=
        ⟨fun h => h.2.2, fun h => ⟨kept, .inl free, h⟩⟩
      rw [if_pos free, freed, ends]
      simp only [condition]
    · have selected : (s.withRef { s.ref with freeRun := f }).selectSource src (s.refSourcePresent src) =
          if s.ref.state = .holdover then s.withRef r else (s.withRef r).endIfPassed := by
        rw [State.selectSource_eq]
        simp only [r, RefUnit.reselected, if_neg kept, if_neg free]
        rfl
      rw [if_neg free]
      refine selected.trans ?_
      rw [ends]
      by_cases state : s.ref.state = .holdover <;> simp [kept, free, state]

/-- The unit set to `r` with no frame begun, and its report. -/
def State.unitSet (w : State) (r : RefUnit) (changed : Bool) : State :=
  { w with ref := r, attn := w.attn.reportIf changed .referenceChange }

theorem State.reportReference_unitSet {s : State} {r : RefUnit} {changed : Bool}
    (h : (s.ref.state != r.state || s.ref.format != r.format) = changed) :
    State.reportReference s (s.withRef r) = s.unitSet r changed := State.reportReference_eq (s := s.withRef r) h

section
variable {s : State} {src : RefSource} {f : Format} {r : RefUnit} {changed : Bool}
  (unit : s.ref.reselected src f s.now (s.refSourcePresent src) = r)
include unit

/-- The frame in progress runs on. -/
theorem State.setReference_runsOn
    (runs : ¬(src ≠ s.ref.source ∧ (src = .free ∨ s.ref.state ≠ .holdover) ∧ r.frameStart + r.frameLength ≤ s.now))
    (report : (s.ref.state != r.state || s.ref.format != r.format) = changed) :
    s.setReference src f = s.unitSet r changed := by
  rw [State.setReference_eq]
  rw [unit, if_neg runs]
  exact State.reportReference_unitSet report

/-- The frame in progress ends inside the command (log 19). -/
theorem State.setReference_ends
    (ends : src ≠ s.ref.source ∧ (src = .free ∨ s.ref.state ≠ .holdover) ∧ r.frameStart + r.frameLength ≤ s.now)
    (report : (s.ref.state != (r.begun s.now).state || s.ref.format != (r.begun s.now).format) = changed) :
    s.setReference src f = s.frameBegun r changed := by
  rw [State.setReference_eq]
  rw [unit, if_pos ends]
  exact State.reportReference_begin report
end

theorem State.frameBegun_withPort (s : State) (p : Port) (r : RefUnit) (changed : Bool) :
    (s.withPort p).frameBegun r changed = (s.frameBegun r changed).withPort p := by
  have begins : ((s.withPort p).withRef r).beginReferenceFrame = (s.withRef r).beginReferenceFrame.withPort p :=
    State.beginReferenceFrame_withPort (s.withRef r) p
  unfold State.frameBegun
  rw [begins]
  simp only [State.withPort]

theorem State.setReference_withPort (s : State) (p : Port) (src : RefSource) (f : Format) :
    (s.withPort p).setReference src f = (s.setReference src f).withPort p := by
  have present : (s.withPort p).refSourcePresent src = s.refSourcePresent src := by cases src <;> rfl
  generalize unit : s.ref.reselected src f s.now (s.refSourcePresent src) = r
  have unit' : (s.withPort p).ref.reselected src f (s.withPort p).now ((s.withPort p).refSourcePresent src) = r := by
    rw [present, ← unit]
    rfl
  by_cases ends : src ≠ s.ref.source ∧ (src = .free ∨ s.ref.state ≠ .holdover) ∧ r.frameStart + r.frameLength ≤ s.now
  · rw [State.setReference_ends unit ends rfl, State.setReference_ends (s := s.withPort p) unit' ends rfl,
      State.frameBegun_withPort]
    rfl
  · rw [State.setReference_runsOn unit ends rfl, State.setReference_runsOn (s := s.withPort p) unit' ends rfl]
    rfl

theorem Attention.reportIf_true (a : Attention) (o : Occurrence) : a.reportIf true o = a.report o := rfl

/-- Every field that REFERENCE fixes, once the frame in progress has run on or ended. -/
theorem RefUnit.reselected_source (r : RefUnit) (src : RefSource) (f : Format) (now : Nat) (present : Bool) :
    (r.reselected src f now present).source = src ∧ (r.reselected src f now present).freeRun = f := by
  refine ⟨?_, rfl⟩
  unfold RefUnit.reselected
  dsimp only
  split
  · next same => exact same.symm
  · split
    · next free => exact free.symm
    · rfl

/-- REFERENCE leaves receivers, gain stage, clock and queue, and the unit at the source and the free-run format named. -/
theorem State.setReference_frame (s : State) (src : RefSource) (f : Format) :
    let t := s.setReference src f
    t.ref.source = src ∧ t.ref.freeRun = f ∧ t.rx = s.rx ∧ t.console = s.console ∧ t.gain = s.gain ∧ t.now = s.now ∧
      t.pending = s.pending := by
  obtain ⟨source, freeRun⟩ := s.ref.reselected_source src f s.now (s.refSourcePresent src)
  generalize unit : s.ref.reselected src f s.now (s.refSourcePresent src) = r at source freeRun
  by_cases ends : src ≠ s.ref.source ∧ (src = .free ∨ s.ref.state ≠ .holdover) ∧ r.frameStart + r.frameLength ≤ s.now
  · rw [State.setReference_ends unit ends rfl]
    unfold State.frameBegun
    rw [State.beginReferenceFrame_frame]
    exact ⟨source, freeRun, rfl, rfl, rfl, rfl, rfl⟩
  · rw [State.setReference_runsOn unit ends rfl]
    exact ⟨source, freeRun, rfl, rfl, rfl, rfl, rfl⟩

/-! ### The row REFERENCE -/

/-- A command of the port that fits the frame executes at the end of its transaction. -/
theorem exec_row_takes {s : State} {params : List Byte} (h : s.takes params) (c : Command) :
    exec (c.row params) s = .next (s.closePort.perform c params) := by
  obtain ⟨released, fits⟩ := h
  have whole : ¬Config.maxParams < params.length := Nat.not_lt.2 fits
  rw [exec_row, State.running_released released, State.wholeFrame, if_neg whole]

/-- An accepted REFERENCE sets the unit and holds its record as the reply. -/
theorem exec_reference {s : State} {params : List Byte} {src : RefSource} {f : Format} (takes : s.takes params)
    (read : readReference params = some (src, f)) : exec (.reference params) s =
      .next ((s.setReference src f).replied .reference .done (s.setReference src f).ref.record) := by
  have executes : exec (.reference params) s = .next (s.closePort.doReference params) := exec_row_takes takes .reference
  have closed : s.closePort.setReference src f = (s.setReference src f).withPort s.port.close :=
    State.setReference_withPort s s.port.close src f
  rw [executes, State.doReference, read]
  dsimp only
  rw [closed]
  rfl

/-- Settles O34: the unit is set by the source named, and a frame whose end has passed ends in the command. -/
theorem referenceSelectsItsSource : Obligations.ReferenceSelectsItsSource := by
  intro s params src f takes read
  have exec' := exec_reference takes read
  refine ⟨⟨_, exec', s.setReference_frame src f⟩, fun same => ?same, fun other free => ?_, fun other selects => ?_⟩
  case same =>
    have unit : s.ref.reselected src f s.now (s.refSourcePresent src) = { s.ref with freeRun := f } := by
      simp only [RefUnit.reselected, if_pos same]
    rw [exec', State.setReference_runsOn (changed := false) unit (fun ends => ends.1 same) (by simp)]
    rfl
  · intro length r p
    have unit : s.ref.reselected src f s.now (s.refSourcePresent src) = r := by
      simp only [RefUnit.reselected, if_neg other, if_pos free]
      rfl
    refine ⟨fun runs => ?_, fun passed => ?_⟩
    · rw [exec', State.setReference_runsOn (changed := s.ref.state != RefState.free) unit
        (fun ends => Nat.not_le.2 runs ends.2.2) (by simp [r])]
      rfl
    · intro v changed
      have begun : r.begun s.now = _ := RefUnit.begun_free rfl s.now
      have report : (s.ref.state != (r.begun s.now).state || s.ref.format != (r.begun s.now).format) = changed := by
        rw [begun]
        simp [changed, r, bne_comm]
      have ref : v.ref = r.begun s.now := State.beginReferenceFrame_ref _
      refine ⟨?_, ref.trans begun⟩
      have frame : s.frameBegun r changed = { v with attn := v.attn.reportIf changed .referenceChange } := rfl
      rw [exec', State.setReference_ends unit ⟨other, .inl free, passed⟩ report, frame]
  · intro period length r p
    have unit : s.ref.reselected src f s.now (s.refSourcePresent src) = r := by
      simp only [RefUnit.reselected, if_neg other, if_neg selects]
      rfl
    refine ⟨fun runs => ?_, fun state passed => ?_⟩
    · rw [exec', State.setReference_runsOn (changed := s.ref.state != RefState.holdover) unit ?runs (by simp [r])]
      · rfl
      case runs =>
        rintro ⟨_, changes, passed⟩
        rcases runs with state | runs
        · exact (changes.resolve_left selects) state
        · exact Nat.not_le.2 runs passed
    · intro v
      have begun : r.begun s.now = _ := RefUnit.begun_holdover rfl s.now
      have report : (s.ref.state != (r.begun s.now).state || s.ref.format != (r.begun s.now).format) = true := by
        rw [begun]
        simp [r, state]
      have phase : r.phaseFor r.format = p := by simp [RefUnit.phaseFor, r, p]
      have ref : v.ref = r.begun s.now := State.beginReferenceFrame_ref _
      refine ⟨?_, by rw [ref, begun, phase]⟩
      have frame : s.frameBegun r true = { v with attn := v.attn.reportIf true .referenceChange } := rfl
      rw [← Attention.reportIf_true, exec', State.setReference_ends unit ⟨other, .inr state, passed⟩ report, frame]

end Sys2Proof.Machine
end

section
/-! Draws on a sound table (R63, R64, R103 to R106): which record and entry own a destination, and what draws for
destinations that all differ make of the table together. -/

namespace Sys2Proof.Machine

/-! ### Owners on a sound table (R56, R58, R63) -/

theorem Track.entryFor_eq_some {t : Track} {d : Dest} {e : Entry} (h : t.entryFor d = some e) :
    e ∈ t.entries ∧ e.dest = d :=
  ⟨List.mem_of_find?_eq_some h, by simpa using List.find?_some h⟩

/-- A list holds no two entries for one destination, so the one found is the one there is (R54). -/
theorem Track.entryFor_of_mem {t : Track} (law : t.ListLaw) {e : Entry} (h : e ∈ t.entries) :
    t.entryFor e.dest = some e := by
  cases found : t.entryFor e.dest with
  | none => exact absurd (List.find?_eq_none.1 found e h) (by simp)
  | some f =>
    obtain ⟨mem, same⟩ := Track.entryFor_eq_some found
    exact congrArg some (List.inj_on_of_nodup_map law.2 mem h same)

/-- A label finds its record (R58). -/
theorem Table.PlacementLaw.lookup {tab : Table} (law : tab.PlacementLaw) {i : Fin 256} {t : Track} (h : tab.holds i t) :
    tab.lookup t.label = some (i, t) := by
  obtain ⟨placed, unique⟩ := law
  have here : (tab.slots.get i).any (fun u => u.label = t.label) = true := by
    rw [show tab.slots.get i = some t from h]
    simp
  cases found : tab.find t.label with
  | none => exact absurd here (List.find?_eq_none.1 found i (placed i t h))
  | some j =>
    obtain ⟨u, held, label⟩ : ∃ u, tab.slots.get j = some u ∧ u.label = t.label := by
      simpa [Option.any_eq_true] using List.find?_some found
    obtain rfl := unique j i u t held h label
    rw [Table.lookup, found, Option.bind_some, show tab.slots.get j = some t from h]
    rfl

/-- On a sound table a destination's owner is the entry there is for it, and no other (R63, R64). -/
theorem Table.Sound.owning_iff {tab : Table} (sound : tab.Sound) {d : Dest} {i : Fin 256} {t : Track} {e : Entry} :
    tab.owning d = some (i, t, e) ↔ tab.holds i t ∧ e ∈ t.entries ∧ e.dest = d := by
  obtain ⟨lists, placement, map⟩ := sound
  constructor
  · intro owns
    obtain ⟨held, -, entry⟩ := Table.owning_eq_some owns
    exact ⟨held, Track.entryFor_eq_some entry⟩
  · rintro ⟨held, mem, rfl⟩
    have owner : tab.ownerOf e.dest = some t.label := (map e.dest t.label).2 ⟨i, t, held, rfl, e, mem, rfl⟩
    rw [Table.owning, owner, Option.bind_some, placement.lookup held, Option.bind_some]
    dsimp only
    rw [Track.entryFor_of_mem (lists i t held) mem, Option.map_some]

theorem Table.Sound.owning_unique {tab : Table} (sound : tab.Sound) {i j : Fin 256} {t u : Track} {e f : Entry}
    (ht : tab.holds i t) (he : e ∈ t.entries) (hu : tab.holds j u) (hf : f ∈ u.entries) (same : e.dest = f.dest) :
    i = j ∧ t = u ∧ e = f := by
  have first := sound.owning_iff.2 ⟨ht, he, same⟩
  have second := sound.owning_iff.2 ⟨hu, hf, rfl⟩
  simpa using first.symm.trans second

/-- Where the owner is missing, no record has an entry. -/
theorem Table.Sound.owning_eq_none {tab : Table} (sound : tab.Sound) {d : Dest} :
    tab.owning d = none ↔ ∀ i t, tab.holds i t → ∀ e ∈ t.entries, e.dest ≠ d := by
  constructor
  · intro none i t held e mem same
    rw [sound.owning_iff.2 ⟨held, mem, same⟩] at none
    cases none
  · intro none
    by_contra some
    obtain ⟨⟨i, t, e⟩, owns⟩ := Option.ne_none_iff_exists'.1 some
    obtain ⟨held, mem, same⟩ := sound.owning_iff.1 owns
    exact none i t held e mem same

/-! ### What keeps a table sound -/

/-- The label stands, and the entries' destinations. -/
def Track.SamePlace (t u : Track) : Prop := u.label = t.label ∧ u.entries.map (·.dest) = t.entries.map (·.dest)

theorem Track.SamePlace.mem_dests {t u : Track} (h : t.SamePlace u) (d : Dest) :
    (∃ e ∈ u.entries, e.dest = d) ↔ ∃ e ∈ t.entries, e.dest = d := by
  rw [← List.mem_map, h.2, List.mem_map]

theorem State.holds_mapTracks {s : State} {f : Track → Track} {i : Fin 256} {u : Track} :
    (s.mapTracks f).table.holds i u ↔ ∃ t, s.table.holds i t ∧ f t = u := by
  simp only [Table.holds, State.mapTracks_table, Bank.get_map, Option.map_eq_some_iff]

/-- Soundness is about labels and destinations only. -/
theorem Table.Sound.mapTracks {s : State} (sound : s.table.Sound) {f : Track → Track}
    (h : ∀ t : Track, t.SamePlace (f t)) :
    (s.mapTracks f).table.Sound := by
  obtain ⟨lists, ⟨placed, unique⟩, map⟩ := sound
  refine ⟨fun i u hu => ?_, ⟨fun i u hu => ?_, fun i j u v hu hv same => ?_⟩, fun d label => ?_⟩
  · obtain ⟨t, ht, rfl⟩ := State.holds_mapTracks.1 hu
    obtain ⟨length, distinct⟩ := lists i t ht
    refine ⟨?_, by rw [(h t).2]; exact distinct⟩
    have same := congrArg List.length (h t).2
    simp only [List.length_map] at same
    omega
  · obtain ⟨t, ht, rfl⟩ := State.holds_mapTracks.1 hu
    rw [(h t).1]
    exact placed i t ht
  · obtain ⟨t, ht, rfl⟩ := State.holds_mapTracks.1 hu
    obtain ⟨t', ht', rfl⟩ := State.holds_mapTracks.1 hv
    exact unique i j t t' ht ht' (by rw [← (h t).1, same, (h t').1])
  · refine (map d label).trans ⟨?_, ?_⟩
    · rintro ⟨i, t, ht, rfl, mem⟩
      exact ⟨i, f t, State.holds_mapTracks.2 ⟨t, ht, rfl⟩, (h t).1, ((h t).mem_dests d).2 mem⟩
    · rintro ⟨i, u, hu, rfl, mem⟩
      obtain ⟨t, ht, rfl⟩ := State.holds_mapTracks.1 hu
      exact ⟨i, t, ht, (h t).1.symm, ((h t).mem_dests d).1 mem⟩

/-! ### Draws for several destinations together -/

/-- Whether a draw for one of the destinations concerned slips an entry of the record (R104). -/
def Track.slipsAt (t : Track) (concerned : Dest → Bool) : Bool :=
  t.entries.any fun e => concerned e.dest && t.slipsOnDraw e

/-- Whether one is limited (R131); `sample` reads the windows. -/
def Track.clipsAt (t : Track) (sample : Source → Nat → Sample) (device : Rounding) (w : WordLength)
    (concerned : Dest → Bool) : Bool :=
  t.entries.any fun e => concerned e.dest && t.clips device w (t.drawn (sample (t.effective e)) e)

/-- The record after one draw for each of the destinations concerned (R103 to R106, R131). -/
def Track.drawnAt (sample : Source → Nat → Sample) (device : Rounding) (w : WordLength) (concerned : Dest → Bool)
    (t : Track) : Track := { t with
  entries := t.entries.map fun e => if concerned e.dest then t.entryDrawn (sample (t.effective e)) e else e
  slipped := t.slipped || t.slipsAt concerned
  clipped := t.clipped || t.clipsAt sample device w concerned }

/-- The part after one draw for each of the destinations concerned. -/
def State.drawnAt (s : State) (w : WordLength) (concerned : Dest → Bool) : State :=
  (s.mapTracks (Track.drawnAt s.sampleAt s.gain.rounding w concerned)).reportIf
    (s.anyTrack fun t => t.slipsAt concerned) .slip

theorem Track.samePlace_drawnAt (sample : Source → Nat → Sample) (device : Rounding) (w : WordLength)
    (concerned : Dest → Bool) (t : Track) : t.SamePlace (t.drawnAt sample device w concerned) := by
  refine ⟨rfl, ?_⟩
  simp only [Track.drawnAt, List.map_map]
  refine List.map_congr_left fun e _ => ?_
  rw [Function.comp_apply]
  split
  · exact t.entryDrawn_dest _ e
  · rfl

theorem State.sound_drawnAt {s : State} (sound : s.table.Sound) (w : WordLength) (concerned : Dest → Bool) :
    (s.drawnAt w concerned).table.Sound :=
  sound.mapTracks fun t => t.samePlace_drawnAt ..

/-- No entry concerned, no change. -/
theorem Track.drawnAt_of_none {t : Track} {concerned : Dest → Bool} (h : ∀ e ∈ t.entries, concerned e.dest = false)
    (sample : Source → Nat → Sample) (device : Rounding) (w : WordLength) :
    t.drawnAt sample device w concerned = t ∧ t.slipsAt concerned = false := by
  have slips : t.slipsAt concerned = false := by simpa [Track.slipsAt] using fun e he c => by simp [h e he] at c
  have clips : t.clipsAt sample device w concerned = false := by
    simpa [Track.clipsAt] using fun e he c => by simp [h e he] at c
  have entries : t.entries.map (fun e => if concerned e.dest then t.entryDrawn (sample (t.effective e)) e else e) =
      t.entries := by
    rw [List.map_congr_left (g := id) fun e he => by simp [h e he], List.map_id]
  refine ⟨?_, slips⟩
  rw [Track.drawnAt, slips, clips, entries, Bool.or_false, Bool.or_false]

/-- A record with one entry for the destination drawn. -/
theorem Track.drawnAt_of_entry {t : Track} (law : t.ListLaw) {e : Entry} (mem : e ∈ t.entries)
    (sample : Source → Nat → Sample) (device : Rounding) (w : WordLength) :
    t.drawnAt sample device w (· = e.dest) = { (t.modifyEntry e.dest (t.entryDrawn (sample (t.effective e)))) with
      slipped := t.slipped || t.slipsOnDraw e
      clipped := t.clipped || t.clips device w (t.drawn (sample (t.effective e)) e) } ∧
    t.slipsAt (· = e.dest) = t.slipsOnDraw e := by
  have only (f : Entry) (hf : f ∈ t.entries) (same : f.dest = e.dest) : f = e :=
    List.inj_on_of_nodup_map law.2 hf mem same
  have one (p : Entry → Bool) : (t.entries.any fun f => decide (f.dest = e.dest) && p f) = p e := by
    rw [Bool.eq_iff_iff, List.any_eq_true]
    constructor
    · rintro ⟨f, hf, h⟩
      obtain ⟨same, holds⟩ := Bool.and_eq_true_iff.1 h
      rwa [only f hf (of_decide_eq_true same)] at holds
    · intro holds
      exact ⟨e, mem, by simp [holds]⟩
  have entries : t.entries.map (fun f => if decide (f.dest = e.dest) then t.entryDrawn (sample (t.effective f)) f else f) =
      t.entries.map fun f => if f.dest = e.dest then t.entryDrawn (sample (t.effective e)) f else f := by
    refine List.map_congr_left fun f hf => ?_
    by_cases same : f.dest = e.dest
    · simp [only f hf same]
    · simp [same]
  have slips : t.slipsAt (· = e.dest) = t.slipsOnDraw e := one _
  have clips : t.clipsAt sample device w (· = e.dest) = t.clips device w (t.drawn (sample (t.effective e)) e) := one _
  refine ⟨?_, slips⟩
  rw [Track.drawnAt, slips, clips, entries]
  rfl

/-- The value of a draw on a sound table, and the part after it. -/
theorem State.draw_sound {s : State} (sound : s.table.Sound) (d : Dest) (w : WordLength) :
    (s.draw d w).2 = s.drawnAt w (· = d) := by
  cases owns : s.table.owning d with
  | none =>
    have absent := sound.owning_eq_none.1 owns
    have still (i : Fin 256) (t : Track) (held : s.table.holds i t) :=
      Track.drawnAt_of_none (t := t) (concerned := (· = d)) (fun e he => decide_eq_false (absent i t held e he))
        s.sampleAt s.gain.rounding w
    have slips : s.anyTrack (fun t => t.slipsAt (· = d)) = false := by
      rw [Bool.eq_false_iff, ne_eq, State.anyTrack_iff]
      rintro ⟨i, t, held, slip⟩
      rw [(still i t held).2] at slip
      cases slip
    have slots : s.table.slots.map (Option.map (Track.drawnAt s.sampleAt s.gain.rounding w (· = d))) = s.table.slots := by
      refine Bank.ext_get fun i => ?_
      rw [Bank.get_map]
      cases held : s.table.slots.get i with
      | none => rfl
      | some t => exact congrArg some (still i t held).1
    simp only [State.draw, owns, State.drawnAt, slips, State.mapTracks, slots, State.reportIf_false]
  | some owner =>
    obtain ⟨i, t, e⟩ := owner
    obtain ⟨held, mem, rfl⟩ := sound.owning_iff.1 owns
    obtain ⟨record, slip⟩ := Track.drawnAt_of_entry (sound.1 i t held) mem s.sampleAt s.gain.rounding w
    have others (j : Fin 256) (u : Track) (other : i ≠ j) (hu : s.table.holds j u) :=
      Track.drawnAt_of_none (t := u) (concerned := (· = e.dest))
        (fun f hf => decide_eq_false fun same => other (sound.owning_unique held mem hu hf same.symm).1)
        s.sampleAt s.gain.rounding w
    have slips : s.anyTrack (fun t => t.slipsAt (· = e.dest)) = t.slipsOnDraw e := by
      rw [Bool.eq_iff_iff, State.anyTrack_iff, ← slip]
      constructor
      · rintro ⟨j, u, hu, slips⟩
        by_cases same : i = j
        · subst same
          cases held.symm.trans hu
          exact slips
        · rw [(others j u same hu).2] at slips
          cases slips
      · exact fun slips => ⟨i, t, held, slips⟩
    have slots : s.table.slots.map (Option.map (Track.drawnAt s.sampleAt s.gain.rounding w (· = e.dest))) =
        s.table.slots.set i (some (t.drawnAt s.sampleAt s.gain.rounding w (· = e.dest))) := by
      refine Bank.ext_get fun j => ?_
      rw [Bank.get_map, Bank.get_set]
      split
      · next same => rw [← same, show s.table.slots.get i = some t from held, Option.map_some]
      · next other =>
        cases hu : s.table.slots.get j with
        | none => rfl
        | some u => exact congrArg some (others j u other hu).1
    simp only [State.draw, owns, State.drawnAt, slips, State.mapTracks, slots, record, Table.put]

/-- What a draw yields for a destination that has an owner (R64, R128 to R131). -/
theorem State.draw_owned {s : State} {d : Dest} {i : Fin 256} {t : Track} {e : Entry}
    (owns : s.table.owning d = some (i, t, e)) (w : WordLength) :
    (s.draw d w).1 = t.shape s.gain.rounding w (t.drawn (s.sampleAt (t.effective e)) e) := by
  rw [State.draw, owns]

theorem State.draw_ownerless {s : State} {d : Dest} (owns : s.table.owning d = none) (w : WordLength) :
    s.draw d w = (0, s) := by
  rw [State.draw, owns]

section
variable (sample : Source → Nat → Sample) (device : Rounding) (w : WordLength)

/-- Draws for other destinations leave the entries of these. -/
theorem Track.any_drawnAt {A B : Dest → Bool} (apart : ∀ d, A d = true → B d = false) (t : Track) (p : Entry → Bool) :
    ((t.drawnAt sample device w A).entries.any fun e => B e.dest && p e) = t.entries.any fun e => B e.dest && p e := by
  simp only [Track.drawnAt, List.any_map]
  congr 1
  funext e
  rw [Function.comp_apply]
  split
  · next drawn => rw [Track.entryDrawn_dest, apart _ drawn, Bool.false_and, Bool.false_and]
  · rfl

theorem any_concerned_or (es : List Entry) (A B : Dest → Bool) (p : Entry → Bool) :
    (es.any fun e => (A e.dest || B e.dest) && p e) =
      ((es.any fun e => A e.dest && p e) || es.any fun e => B e.dest && p e) := by
  induction es with
  | nil => rfl
  | cons e es ih =>
    rw [List.any_cons, List.any_cons, List.any_cons, ih, Bool.and_or_distrib_right]
    ac_rfl

theorem Track.slipsAt_or (t : Track) (A B : Dest → Bool) :
    t.slipsAt (fun d => A d || B d) = (t.slipsAt A || t.slipsAt B) := any_concerned_or t.entries A B t.slipsOnDraw

theorem Track.clipsAt_or (t : Track) (A B : Dest → Bool) :
    t.clipsAt sample device w (fun d => A d || B d) = (t.clipsAt sample device w A || t.clipsAt sample device w B) :=
  any_concerned_or t.entries A B fun e => t.clips device w (t.drawn (sample (t.effective e)) e)

theorem Track.slipsAt_drawnAt {A B : Dest → Bool} (apart : ∀ d, A d = true → B d = false) (t : Track) :
    (t.drawnAt sample device w A).slipsAt B = t.slipsAt B := Track.any_drawnAt sample device w apart t t.slipsOnDraw

theorem Track.clipsAt_drawnAt {A B : Dest → Bool} (apart : ∀ d, A d = true → B d = false) (t : Track) :
    (t.drawnAt sample device w A).clipsAt sample device w B = t.clipsAt sample device w B :=
  Track.any_drawnAt sample device w apart t fun e => t.clips device w (t.drawn (sample (t.effective e)) e)

/-- Two draws of one record, for destinations apart, are one of both. -/
theorem Track.drawnAt_drawnAt {A B : Dest → Bool} (apart : ∀ d, A d = true → B d = false) (t : Track) :
    (t.drawnAt sample device w A).drawnAt sample device w B = t.drawnAt sample device w fun d => A d || B d := by
  have entries : (t.drawnAt sample device w A).entries.map (fun e =>
      if B e.dest then t.entryDrawn (sample (t.effective e)) e else e) =
      t.entries.map fun e => if A e.dest || B e.dest then t.entryDrawn (sample (t.effective e)) e else e := by
    simp only [Track.drawnAt, List.map_map]
    refine List.map_congr_left fun e _ => ?_
    rw [Function.comp_apply]
    by_cases drawn : A e.dest = true
    · simp [drawn, apart]
    · simp [drawn]
  calc
    _ = { t with
          entries := (t.drawnAt sample device w A).entries.map fun e : Entry =>
            if B e.dest then t.entryDrawn (sample (t.effective e)) e else e
          slipped := t.slipped || t.slipsAt A || (t.drawnAt sample device w A).slipsAt B
          clipped := t.clipped || t.clipsAt sample device w A ||
            (t.drawnAt sample device w A).clipsAt sample device w B } := rfl
    _ = _ := by
      rw [entries, Track.slipsAt_drawnAt sample device w apart, Track.clipsAt_drawnAt sample device w apart,
        Bool.or_assoc, Bool.or_assoc, ← Track.slipsAt_or, ← Track.clipsAt_or]
      rfl
end

theorem State.anyTrack_or (s : State) (p q : Track → Bool) :
    s.anyTrack (fun t => p t || q t) = (s.anyTrack p || s.anyTrack q) := by
  rw [Bool.eq_iff_iff, Bool.or_eq_true]
  simp only [State.anyTrack_iff, Bool.or_eq_true]
  constructor
  · rintro ⟨i, v, held, h | h⟩
    · exact .inl ⟨i, v, held, h⟩
    · exact .inr ⟨i, v, held, h⟩
  · rintro (⟨i, v, held, h⟩ | ⟨i, v, held, h⟩)
    · exact ⟨i, v, held, .inl h⟩
    · exact ⟨i, v, held, .inr h⟩

theorem State.drawnAt_drawnAt {A B : Dest → Bool} (apart : ∀ d, A d = true → B d = false) (s : State) (w : WordLength) :
    (s.drawnAt w A).drawnAt w B = s.drawnAt w fun d => A d || B d := by
  have records : (s.table.slots.map (Option.map (Track.drawnAt s.sampleAt s.gain.rounding w A))).map
      (Option.map (Track.drawnAt s.sampleAt s.gain.rounding w B)) =
      s.table.slots.map (Option.map (Track.drawnAt s.sampleAt s.gain.rounding w fun d => A d || B d)) := by
    refine Bank.ext_get fun i => ?_
    rw [Bank.get_map, Bank.get_map, Bank.get_map, Option.map_map]
    congr 1
    funext t
    exact t.drawnAt_drawnAt _ _ _ apart
  have slips : ((s.mapTracks (Track.drawnAt s.sampleAt s.gain.rounding w A)).anyTrack fun t => t.slipsAt B) =
      s.anyTrack fun t => t.slipsAt B := by
    rw [State.anyTrack_mapTracks]
    congr 1
    funext t
    exact t.slipsAt_drawnAt _ _ _ apart
  have both : (s.anyTrack fun t => t.slipsAt fun d => A d || B d) =
      ((s.anyTrack fun t => t.slipsAt A) || (s.mapTracks (Track.drawnAt s.sampleAt s.gain.rounding w A)).anyTrack
        fun t => t.slipsAt B) := by
    rw [slips, ← State.anyTrack_or]
    congr 1
    funext t
    exact t.slipsAt_or A B
  rw [State.drawnAt, State.drawnAt, State.drawnAt, both]
  simp only [State.reportIf, State.mapTracks, ← Attention.reportIf_reportIf]
  rw [← records]
  rfl

theorem State.drawnAt_none (s : State) (w : WordLength) : s.drawnAt w (fun _ => false) = s := by
  have still (t : Track) := t.drawnAt_of_none (concerned := fun _ => false) (fun _ _ => rfl) s.sampleAt s.gain.rounding w
  have slips : s.anyTrack (fun t => t.slipsAt fun _ => false) = false := by
    rw [Bool.eq_false_iff, ne_eq, State.anyTrack_iff]
    rintro ⟨i, t, -, slip⟩
    rw [(still t).2] at slip
    cases slip
  have slots : s.table.slots.map (Option.map (Track.drawnAt s.sampleAt s.gain.rounding w fun _ => false)) =
      s.table.slots := by
    refine Bank.ext_get fun i => ?_
    rw [Bank.get_map]
    cases s.table.slots.get i with
    | none => rfl
    | some t => exact congrArg some (still t).1
  simp only [State.drawnAt, slips, State.mapTracks, slots, State.reportIf_false]

/-- A destination that is not drawn for keeps its owner, and the owner's draw yields what it did. -/
theorem State.draw_drawnAt {s : State} (sound : s.table.Sound) {A : Dest → Bool} {d : Dest} (apart : A d = false)
    (w : WordLength) : ((s.drawnAt w A).draw d w).1 = (s.draw d w).1 := by
  cases owns : s.table.owning d with
  | none =>
    have after : (s.drawnAt w A).table.owning d = none := by
      rw [(s.sound_drawnAt sound w A).owning_eq_none]
      intro i u held f mem same
      obtain ⟨t, ht, rfl⟩ := State.holds_mapTracks.1 held
      obtain ⟨e, he, here⟩ := ((t.samePlace_drawnAt ..).mem_dests d).1 ⟨f, mem, same⟩
      exact sound.owning_eq_none.1 owns i t ht e he here
    rw [State.draw_ownerless owns, State.draw_ownerless after]
  | some owner =>
    obtain ⟨i, t, e⟩ := owner
    obtain ⟨held, mem, rfl⟩ := sound.owning_iff.1 owns
    have entry : e ∈ (t.drawnAt s.sampleAt s.gain.rounding w A).entries :=
      List.mem_map.2 ⟨e, mem, by simp [apart]⟩
    have after : (s.drawnAt w A).table.owning e.dest = some (i, t.drawnAt s.sampleAt s.gain.rounding w A, e) :=
      (s.sound_drawnAt sound w A).owning_iff.2 ⟨State.holds_mapTracks.2 ⟨t, held, rfl⟩, entry, rfl⟩
    rw [State.draw_owned owns, State.draw_owned after]
    rfl

/-- Draws for destinations that all differ, on a sound table: each yields what it would alone, and together they leave
the part as one draw of them all. -/
theorem State.draws_sound {s : State} (sound : s.table.Sound) (w : WordLength) {ds : List Dest} (distinct : ds.Nodup) :
    s.draws w ds = (ds.map fun d => (s.draw d w).1, s.drawnAt w (· ∈ ds)) := by
  induction ds generalizing s with
  | nil => simp [State.draws, State.drawnAt_none]
  | cons d ds ih =>
    obtain ⟨fresh, distinct⟩ := List.nodup_cons.1 distinct
    have apart (d' : Dest) (mem : d' ∈ ds) : d' ≠ d := fun same => fresh (same ▸ mem)
    have values : (ds.map fun d' => ((s.drawnAt w (· = d)).draw d' w).1) = ds.map fun d' => (s.draw d' w).1 :=
      List.map_congr_left fun d' mem => State.draw_drawnAt sound (decide_eq_false (apart d' mem)) w
    have both : (s.drawnAt w (· = d)).drawnAt w (· ∈ ds) = s.drawnAt w (· ∈ d :: ds) := by
      rw [State.drawnAt_drawnAt fun d' same => by simpa [of_decide_eq_true same] using fresh]
      congr 1
      funext d'
      simp [Bool.decide_or]
    rw [State.draws, State.draw_sound sound, ih (s.sound_drawnAt sound w _) distinct, values, both]
    rfl

end Sys2Proof.Machine
end

section
/-! A reference sample instant (spec 02 R27, 07 R122, R123, 08 R152): the console frame sent, and what the draws and the
ramp step make of each record. -/

namespace Sys2Proof.Machine

/-! ### The console frame sent (R181, R183) -/

theorem sampleOf_sampleBytes (x : Sample) :
    sampleOf (x.extractLsb' 16 8) (x.extractLsb' 8 8) (x.extractLsb' 0 8) = x := by
  have high : x.extractLsb' 16 8 ++ x.extractLsb' 8 8 = x.extractLsb' 8 16 :=
    BitVec.extractLsb'_append_extractLsb'_eq_extractLsb' (start₂ := 16) (start₁ := 8) (len₁ := 8) rfl
  have whole : x.extractLsb' 8 16 ++ x.extractLsb' 0 8 = x.extractLsb' 0 24 :=
    BitVec.extractLsb'_append_extractLsb'_eq_extractLsb' (start₂ := 8) (start₁ := 0) (len₁ := 8) rfl
  rw [sampleOf, high, whole, BitVec.extractLsb'_eq_self]

theorem sampleFrom_cons3 (a b c : Byte) (bs : List Byte) (i : Nat) :
    sampleFrom (a :: b :: c :: bs) (3 + i) = sampleFrom bs i := by
  unfold sampleFrom
  rw [show 3 + i = i + 1 + 1 + 1 by omega]
  rfl

/-- The samples laid out one behind the other stand each in its place. -/
theorem sampleFrom_builtSamples (values : List Int) (i : Nat) :
    sampleFrom (values.flatMap (builtSample .w24)) (3 * i) = BitVec.ofInt 24 (values.getD i 0) := by
  induction values generalizing i with
  | nil => simp [sampleFrom, sampleOf]
  | cons v values ih =>
    cases i with
    | zero => exact sampleOf_sampleBytes (BitVec.ofInt 24 v)
    | succ i =>
      rw [show 3 * (i + 1) = 3 + 3 * i by omega]
      exact (sampleFrom_cons3 _ _ _ _ _).trans (ih i)

theorem length_builtSamples (w : WordLength) (values : List Int) :
    (values.flatMap (builtSample w)).length = 3 * values.length := by
  induction values with
  | nil => rfl
  | cons v values ih =>
    have one : (builtSample w v).length = 3 := by cases w <;> rfl
    rw [List.flatMap_cons, List.length_append, one, ih, List.length_cons]
    omega

/-- The console frame made of one value per channel. -/
def channelFrame (value : Fin 64 → Int) : List Byte := consoleFrame ((List.finRange 64).map value)

theorem channelFrame_length (value : Fin 64 → Int) : (channelFrame value).length = 195 := by
  rw [channelFrame, consoleFrame, List.length_append, length_builtSamples, List.length_map, List.length_finRange]
  rfl

theorem channelFrame_framed (value : Fin 64 → Int) : framed (channelFrame value) = true := by
  rw [framed, channelFrame_length]
  rfl

theorem consoleSamples_channelFrame (value : Fin 64 → Int) (n : Fin 64) :
    (consoleSamples (channelFrame value)).get n = BitVec.ofInt 24 (value n) := by
  rw [consoleSamples, Bank.get_ofFn, channelFrame, consoleFrame]
  refine (sampleFrom_cons3 _ _ _ _ _).trans ((sampleFrom_builtSamples _ _).trans ?_)
  simp

/-- A value in the range of 24 bits is sent as it is. -/
theorem toInt_ofInt_of_mem {v : Int} (h : WordLength.w24.lowest ≤ v ∧ v ≤ WordLength.w24.highest) :
    (BitVec.ofInt 24 v).toInt = v := by
  obtain ⟨low, high⟩ := h
  simp only [WordLength.lowest, WordLength.highest, WordLength.bits] at low high
  exact BitVec.toInt_ofInt_eq_self (by decide) (by omega) (by omega)

/-! ### The value of a channel -/

/-- The value of a channel is that of its draw, or 0 where none was made. -/
theorem valueFor_eq {drawn : List (Fin 64 × Int)} {n : Fin 64} {x : Int} (only : ∀ p ∈ drawn, p.1 = n → p.2 = x)
    (made : x ≠ 0 → ∃ p ∈ drawn, p.1 = n) : valueFor drawn n = x := by
  rw [valueFor]
  cases found : drawn.find? fun p => p.1 = n with
  | none =>
    by_contra other
    obtain ⟨p, mem, same⟩ := made (Ne.symm other)
    exact absurd same (by simpa using List.find?_eq_none.1 found p mem)
  | some p => exact only p (List.mem_of_find?_eq_some found) (by simpa using List.find?_some found)

theorem mem_consoleChannels {early : BitVec 64} {before : Bool} {n : Fin 64} :
    n ∈ consoleChannels early before ↔ early.getLsbD n.1 = before := by simp [consoleChannels]

theorem mem_zip_map {α β : Type} {f : α → β} {xs : List α} {p : α × β} :
    p ∈ xs.zip (xs.map f) ↔ p.1 ∈ xs ∧ p.2 = f p.1 := by
  induction xs with
  | nil => simp
  | cons x xs ih =>
    rw [List.map_cons, List.zip_cons_cons, List.mem_cons, ih, List.mem_cons]
    grind

/-- Each channel is drawn on its side of the ramp step. -/
theorem valueFor_consoleChannels (early : BitVec 64) (f g : Fin 64 → Int) (n : Fin 64) :
    valueFor ((consoleChannels early true).zip ((consoleChannels early true).map f) ++
      (consoleChannels early false).zip ((consoleChannels early false).map g)) n =
      if early.getLsbD n.1 then f n else g n := by
  refine valueFor_eq (fun p mem same => ?_) fun _ => ?_
  · subst same
    rcases List.mem_append.1 mem with first | second
    · obtain ⟨at', value⟩ := mem_zip_map.1 first
      rw [value, mem_consoleChannels.1 at', if_pos rfl]
    · obtain ⟨at', value⟩ := mem_zip_map.1 second
      rw [value, mem_consoleChannels.1 at', if_neg Bool.false_ne_true]
  · cases before : early.getLsbD n.1 with
    | true => exact ⟨(n, f n), List.mem_append_left _ (mem_zip_map.2 ⟨mem_consoleChannels.2 before, rfl⟩), rfl⟩
    | false => exact ⟨(n, g n), List.mem_append_right _ (mem_zip_map.2 ⟨mem_consoleChannels.2 before, rfl⟩), rfl⟩

/-! ### What draws and a ramp step leave of any record, on any table -/

/-- Entries, slipped and clipped alone have changed, and no entry's destination. -/
def Track.DrawsOnly (v u : Track) : Prop :=
  u = { v with entries := u.entries, slipped := u.slipped, clipped := u.clipped } ∧
    u.entries.map (·.dest) = v.entries.map (·.dest)

theorem Track.DrawsOnly.refl (v : Track) : v.DrawsOnly v := ⟨rfl, rfl⟩

theorem Track.DrawsOnly.trans {v u x : Track} (h : v.DrawsOnly u) (k : u.DrawsOnly x) : v.DrawsOnly x := by
  obtain ⟨h, dests⟩ := h
  obtain ⟨k, dests'⟩ := k
  refine ⟨?_, dests'.trans dests⟩
  rw [h] at k
  exact k

theorem Track.DrawsOnly.samePlace {v u : Track} (h : v.DrawsOnly u) : v.SamePlace u :=
  ⟨by rw [h.1], h.2⟩

theorem Track.stepRamp_with (t : Track) (es : List Entry) (slipped clipped : Bool) :
    ({ t with entries := es, slipped := slipped, clipped := clipped } : Track).stepRamp =
      { t.stepRamp with entries := es, slipped := slipped, clipped := clipped } := by
  unfold Track.stepRamp
  dsimp only
  split
  · rfl
  · split <;> rfl

theorem Track.DrawsOnly.stepRamp {v u : Track} (h : v.DrawsOnly u) : v.stepRamp.DrawsOnly u.stepRamp := by
  obtain ⟨h, dests⟩ := h
  have stepped : u.stepRamp = { v.stepRamp with entries := u.entries, slipped := u.slipped, clipped := u.clipped } := by
    conv_lhs => rw [h]
    exact Track.stepRamp_with ..
  rw [stepped]
  refine ⟨rfl, ?_⟩
  rw [v.stepRamp_eq]
  exact dests

theorem Track.samePlace_stepRamp (t : Track) : t.SamePlace t.stepRamp := by
  rw [Track.stepRamp_eq]
  exact ⟨rfl, rfl⟩

/-- Slot by slot, the records stand so related; no record comes or goes. -/
def Table.Related (r : Track → Track → Prop) (a b : Table) : Prop :=
  ∀ i, Option.Rel r (a.slots.get i) (b.slots.get i)

theorem Table.Related.isSome {r : Track → Track → Prop} {a b : Table} (h : a.Related r b) (i : Fin 256) :
    (b.slots.get i).isSome = (a.slots.get i).isSome := by
  obtain related := h i
  generalize a.slots.get i = o, b.slots.get i = o' at related ⊢
  cases related <;> rfl

theorem Table.Related.holds {r : Track → Track → Prop} {a b : Table} (h : a.Related r b) {i : Fin 256} {v u : Track}
    (hv : a.holds i v) (hu : b.holds i u) : r v u := by
  have related := h i
  rw [show a.slots.get i = some v from hv, show b.slots.get i = some u from hu] at related
  cases related
  assumption

theorem Table.Related.refl {r : Track → Track → Prop} (refl : ∀ v, r v v) (a : Table) : a.Related r a := by
  intro i
  cases a.slots.get i with
  | none => exact .none
  | some v => exact .some (refl v)

theorem Table.Related.comp {p q r : Track → Track → Prop} {a b c : Table} (h : a.Related p b) (k : b.Related q c)
    (comp : ∀ v u x, p v u → q u x → r v x) : a.Related r c := by
  intro i
  have first := h i
  have second := k i
  generalize a.slots.get i = o, b.slots.get i = o', c.slots.get i = o'' at first second ⊢
  cases first with
  | none => cases second; exact .none
  | some first =>
    cases second with
    | some second => exact .some (comp _ _ _ first second)

theorem Table.Related.mono {r q : Track → Track → Prop} {a b : Table} (h : a.Related r b)
    (weaker : ∀ v u, r v u → q v u) : a.Related q b :=
  (Table.Related.refl (fun _ => rfl) a).comp (p := Eq) h (by rintro v _ u rfl; exact weaker v u)

theorem State.related_mapTracks (s : State) (f : Track → Track) :
    s.table.Related (fun v u => u = f v) (s.mapTracks f).table := by
  intro i
  rw [State.mapTracks_table, Bank.get_map]
  cases s.table.slots.get i with
  | none => exact .none
  | some v => exact .some rfl

/-- Whether a destination has an owner is a matter of the map, the labels and the entries' destinations (R63, R64). -/
theorem Table.owning_isSome_of_related {a b : Table} (map : b.map = a.map) (h : a.Related Track.SamePlace b) (d : Dest) :
    (b.owning d).isSome = (a.owning d).isSome := by
  have owner : b.ownerOf d = a.ownerOf d := by rw [Table.ownerOf, map, Table.ownerOf]
  have find (label : Nat) : b.find label = a.find label := by
    unfold Table.find
    congr 1
    funext i
    have related := h i
    generalize a.slots.get i = o, b.slots.get i = o' at related ⊢
    cases related with
    | none => rfl
    | some same => simp only [Option.any_some, same.1]
  have entry {v u : Track} (same : v.SamePlace u) : (u.entryFor d).isSome = (v.entryFor d).isSome := by
    rw [Bool.eq_iff_iff, Track.entryFor, Track.entryFor, List.find?_isSome, List.find?_isSome]
    simpa using same.mem_dests d
  unfold Table.owning Table.lookup
  rw [owner]
  cases a.ownerOf d with
  | none => rfl
  | some label =>
    rw [Option.bind_some, Option.bind_some, find]
    cases a.find label with
    | none => rfl
    | some i =>
      have related := h i
      rw [Option.bind_some, Option.bind_some]
      generalize a.slots.get i = o, b.slots.get i = o' at related ⊢
      cases related with
      | none => rfl
      | some same => simpa using entry same

theorem Table.owning_none_of_related {a b : Table} (map : b.map = a.map) (h : a.Related Track.SamePlace b) {d : Dest}
    (ownerless : a.owning d = none) : b.owning d = none := by
  simpa [ownerless] using Table.owning_isSome_of_related map h d

theorem State.related_draw (s : State) (d : Dest) (w : WordLength) :
    s.table.Related Track.DrawsOnly (s.draw d w).2.table := by
  have still : s.table.Related Track.DrawsOnly s.table := .refl .refl _
  intro i
  cases owns : s.table.owning d with
  | none =>
    rw [State.draw_ownerless owns]
    exact still i
  | some owner =>
    obtain ⟨j, v, e⟩ := owner
    have held : s.table.slots.get j = some v := (Table.owning_eq_some owns).1
    rw [State.draw, owns]
    simp only [State.reportIf_table, Table.put_slots, Bank.get_set]
    split
    · next same =>
      subst same
      rw [held]
      refine .some ⟨rfl, ?_⟩
      simp only [Track.modifyEntry, List.map_map]
      refine List.map_congr_left fun f _ => ?_
      rw [Function.comp_apply]
      split
      · exact v.entryDrawn_dest _ f
      · rfl
    · exact still i

theorem State.related_draws (s : State) (w : WordLength) (ds : List Dest) :
    s.table.Related Track.DrawsOnly (s.draws w ds).2.table := by
  induction ds generalizing s with
  | nil => exact .refl .refl _
  | cons d ds ih => exact (s.related_draw d w).comp (ih _) fun _ _ _ => .trans

/-- What an instant's work leaves of any record: the ramp step, and what draws change. -/
theorem State.related_instantWork (s : State) (early : BitVec 64) :
    s.table.Related (fun v u => v.stepRamp.DrawsOnly u) (s.instantWork early).table := by
  have stepped := (s.related_draws .w24 ((consoleChannels early true).map .console)).comp
    (State.related_mapTracks _ Track.stepRamp) (r := fun v u => v.stepRamp.DrawsOnly u)
    (by rintro v u _ drawn rfl; exact drawn.stepRamp)
  exact stepped.comp (State.related_draws _ .w24 ((consoleChannels early false).map .console)) fun _ _ _ => .trans

/-! ### Channels without owner (R152) -/

theorem State.draws_ownerless (s : State) (w : WordLength) (ns : List (Fin 64)) (p : Fin 64 × Int)
    (mem : p ∈ ns.zip (s.draws w (ns.map .console)).1) (ownerless : s.table.owning (.console p.1) = none) : p.2 = 0 := by
  induction ns generalizing s with
  | nil => cases mem
  | cons n ns ih =>
    have kept : (s.draw (.console n) w).2.table.owning (.console p.1) = none :=
      Table.owning_none_of_related (s.slipsOnly_draw _ w).map
        ((s.related_draw (.console n) w).mono fun _ _ => Track.DrawsOnly.samePlace) ownerless
    rcases List.mem_cons.1 mem with rfl | mem
    · exact congrArg Prod.fst (State.draw_ownerless ownerless w)
    · exact ih _ mem kept

/-- The samples of an instant's console frame, by channel. -/
def State.instantValue (s : State) (early : BitVec 64) : Fin 64 → Int :=
  let first := s.draws .w24 ((consoleChannels early true).map .console)
  let second := (first.2.mapTracks Track.stepRamp).draws .w24 ((consoleChannels early false).map .console)
  valueFor ((consoleChannels early true).zip first.1 ++ (consoleChannels early false).zip second.1)

theorem State.instantWork_consoleOut (s : State) (early : BitVec 64) :
    (s.instantWork early).consoleOut = channelFrame (s.instantValue early) := rfl

theorem State.instantValue_ownerless (s : State) (early : BitVec 64) {n : Fin 64}
    (ownerless : s.table.owning (.console n) = none) : s.instantValue early n = 0 := by
  refine valueFor_eq (fun p mem same => ?_) fun other => absurd rfl other
  subst same
  rcases List.mem_append.1 mem with first | second
  · exact s.draws_ownerless .w24 _ p first ownerless
  · have related := (s.related_draws .w24 ((consoleChannels early true).map .console)).comp
      (State.related_mapTracks _ Track.stepRamp) (r := Track.SamePlace) (by
        rintro v u _ drawn rfl
        exact ⟨u.samePlace_stepRamp.1.trans drawn.samePlace.1, u.samePlace_stepRamp.2.trans drawn.samePlace.2⟩)
    have map : ((s.draws .w24 ((consoleChannels early true).map .console)).2.mapTracks Track.stepRamp).table.map =
        s.table.map := (s.slipsOnly_draws .w24 _).map
    exact State.draws_ownerless _ .w24 _ p second (Table.owning_none_of_related map related ownerless)

/-! ### An instant's work on a sound table (R103 to R106, R122, R123, R131) -/

/-- Whether a destination is a console channel that stands before (or not) the ramp step (R123). -/
def Dest.atStep (early : BitVec 64) (before : Bool) : Dest → Bool
  | .console n => early.getLsbD n.1 = before
  | .lane _ _ _ => false

theorem Dest.atStep_apart (early : BitVec 64) (d : Dest) (h : d.atStep early true = true) :
    d.atStep early false = false := by
  cases d with
  | lane l g c => rfl
  | console n =>
    simp only [Dest.atStep, decide_eq_true_eq] at h
    simp [Dest.atStep, h]

theorem Dest.atStep_or (early : BitVec 64) (d : Dest) : (d.atStep early true || d.atStep early false) = d.onConsole := by
  cases d with
  | lane l g c => rfl
  | console n => cases h : early.getLsbD n.1 <;> simp [Dest.atStep, Dest.onConsole, h]

theorem mem_consoleDests (early : BitVec 64) (before : Bool) :
    (fun d => decide (d ∈ (consoleChannels early before).map Dest.console)) = Dest.atStep early before := by
  funext d
  cases d with
  | lane l g c => simp [Dest.atStep]
  | console n => simp [Dest.atStep, mem_consoleChannels]

theorem nodup_consoleDests (early : BitVec 64) (before : Bool) :
    ((consoleChannels early before).map Dest.console).Nodup :=
  ((List.nodup_finRange 64).filter _).map fun _ _ same => Dest.console.inj same

/-- A record after one instant: every console entry drawn, the ramp stepped, and the values limited before or after the
step (R103 to R106, R122, R123, R131). -/
def Track.instantAt (sample : Source → Nat → Sample) (device : Rounding) (early : BitVec 64) (t : Track) : Track :=
  { t.stepRamp.drawnAt sample device .w24 Dest.onConsole with
    clipped := t.clipped || t.clipsAt sample device .w24 (Dest.atStep early true) ||
      t.stepRamp.clipsAt sample device .w24 (Dest.atStep early false) }

/-- A ramp step changes the gain, so that only the values limited tell draws before it from draws after it. -/
theorem Track.stepRamp_drawnAt (sample : Source → Nat → Sample) (device : Rounding) (w : WordLength) (A : Dest → Bool)
    (t : Track) : (t.drawnAt sample device w A).stepRamp =
      { t.stepRamp.drawnAt sample device w A with clipped := t.clipped || t.clipsAt sample device w A } := by
  refine (Track.stepRamp_with ..).trans ?_
  have step := t.stepRamp_eq
  generalize t.stepRamp.gainNow = gain, t.stepRamp.ramp = ramp at step
  rw [step]
  rfl

theorem Track.instantAt_eq (sample : Source → Nat → Sample) (device : Rounding) (early : BitVec 64) (t : Track) :
    (t.drawnAt sample device .w24 (Dest.atStep early true)).stepRamp.drawnAt sample device .w24 (Dest.atStep early false) =
      t.instantAt sample device early := by
  have apart := Dest.atStep_apart early
  have both : (fun d => Dest.atStep early true d || Dest.atStep early false d) = Dest.onConsole :=
    funext (Dest.atStep_or early)
  have stepped : { t.stepRamp.drawnAt sample device .w24 (Dest.atStep early true) with
      clipped := t.clipped || t.clipsAt sample device .w24 (Dest.atStep early true) }.drawnAt sample device .w24
        (Dest.atStep early false) =
      { (t.stepRamp.drawnAt sample device .w24 (Dest.atStep early true)).drawnAt sample device .w24
          (Dest.atStep early false) with
        clipped := t.clipped || t.clipsAt sample device .w24 (Dest.atStep early true) ||
          (t.stepRamp.drawnAt sample device .w24 (Dest.atStep early true)).clipsAt sample device .w24
            (Dest.atStep early false) } := rfl
  rw [Track.stepRamp_drawnAt, stepped, Track.drawnAt_drawnAt _ _ _ apart, Track.clipsAt_drawnAt _ _ _ apart, both,
    Track.instantAt]

theorem Track.slipsAt_stepRamp (t : Track) (A : Dest → Bool) : t.stepRamp.slipsAt A = t.slipsAt A := by
  rw [Track.stepRamp_eq]
  rfl

/-- The part as its ramps have stepped, the channels drawn before the step drawn. -/
def State.halfway (s : State) (early : BitVec 64) : State :=
  (s.drawnAt .w24 (Dest.atStep early true)).mapTracks Track.stepRamp

theorem State.sound_halfway {s : State} (sound : s.table.Sound) (early : BitVec 64) :
    (s.halfway early).table.Sound := (s.sound_drawnAt sound _ _).mapTracks Track.samePlace_stepRamp

/-- The console frame and the part after an instant's work. -/
theorem State.instantWork_sound {s : State} (sound : s.table.Sound) (early : BitVec 64) :
    s.instantValue early = (fun n => if early.getLsbD n.1 then (s.draw (.console n) .w24).1
      else ((s.halfway early).draw (.console n) .w24).1) ∧
    (s.instantWork early).table = (s.mapTracks (Track.instantAt s.sampleAt s.gain.rounding early)).table ∧
    (s.instantWork early).attn = s.attn.reportIf (s.anyTrack fun t => t.slipsAt Dest.onConsole) .slip := by
  have first : s.draws .w24 ((consoleChannels early true).map .console) =
      ((consoleChannels early true).map fun n => (s.draw (.console n) .w24).1, s.drawnAt .w24 (Dest.atStep early true)) := by
    rw [s.draws_sound sound .w24 (nodup_consoleDests early true), mem_consoleDests, List.map_map]
    rfl
  have second : (s.halfway early).draws .w24 ((consoleChannels early false).map .console) =
      ((consoleChannels early false).map fun n => ((s.halfway early).draw (.console n) .w24).1,
        (s.halfway early).drawnAt .w24 (Dest.atStep early false)) := by
    rw [State.draws_sound (s.sound_halfway sound early) .w24 (nodup_consoleDests early false), mem_consoleDests,
      List.map_map]
    rfl
  have halfway : (s.draws .w24 ((consoleChannels early true).map .console)).2.mapTracks Track.stepRamp =
      s.halfway early := by rw [first, State.halfway]
  have table : (s.instantWork early).table =
      ((s.draws .w24 ((consoleChannels early true).map .console)).2.mapTracks Track.stepRamp |>.draws .w24
        ((consoleChannels early false).map .console)).2.table := rfl
  have attn : (s.instantWork early).attn =
      ((s.draws .w24 ((consoleChannels early true).map .console)).2.mapTracks Track.stepRamp |>.draws .w24
        ((consoleChannels early false).map .console)).2.attn := rfl
  refine ⟨funext fun n => ?_, ?_, ?_⟩
  · unfold State.instantValue
    rw [halfway, second, first]
    exact valueFor_consoleChannels early _ _ n
  · have slots : (s.halfway early).table.slots.map (Option.map (Track.drawnAt (s.halfway early).sampleAt
        (s.halfway early).gain.rounding .w24 (Dest.atStep early false))) =
        s.table.slots.map (Option.map (Track.instantAt s.sampleAt s.gain.rounding early)) := by
      refine Bank.ext_get fun i => ?_
      simp only [State.halfway, State.mapTracks_table, State.drawnAt, State.reportIf_table, Bank.get_map, Option.map_map]
      congr 1
      funext t
      exact Track.instantAt_eq s.sampleAt s.gain.rounding early t
    rw [table, halfway, second]
    simp only [State.drawnAt, State.reportIf_table, State.mapTracks_table, slots]
    rfl
  · have slips : ((s.halfway early).anyTrack fun t => t.slipsAt (Dest.atStep early false)) =
        s.anyTrack fun t => t.slipsAt (Dest.atStep early false) := by
      have drawn (p : Track → Bool) : (s.drawnAt .w24 (Dest.atStep early true)).anyTrack p =
          (s.mapTracks (Track.drawnAt s.sampleAt s.gain.rounding .w24 (Dest.atStep early true))).anyTrack p := rfl
      rw [State.halfway, State.anyTrack_mapTracks, drawn, State.anyTrack_mapTracks]
      congr 1
      funext t
      rw [Track.slipsAt_stepRamp, Track.slipsAt_drawnAt _ _ _ (Dest.atStep_apart early)]
    have both : (s.anyTrack fun t => t.slipsAt Dest.onConsole) =
        ((s.anyTrack fun t => t.slipsAt (Dest.atStep early true)) ||
          s.anyTrack fun t => t.slipsAt (Dest.atStep early false)) := by
      rw [← State.anyTrack_or]
      congr 1
      funext t
      rw [← Track.slipsAt_or]
      congr 1
      exact (funext (Dest.atStep_or early)).symm
    rw [attn, halfway, second, both, ← Attention.reportIf_reportIf, ← slips]
    rfl

end Sys2Proof.Machine
end

section
/-! REFERENCE_SAMPLE_INSTANT, clause by clause. -/

namespace Sys2Proof.Machine

/-! ### What one instant leaves of a record -/

section
variable (sample : Source → Nat → Sample) (device : Rounding) (early : BitVec 64) (t : Track)

theorem Track.instantAt_entries : (t.instantAt sample device early).entries = t.entries.map fun e =>
    match e.dest with
    | .console _ => t.entryDrawn (sample (t.effective e)) e
    | .lane _ _ _ => e := by
  have drawn : (t.instantAt sample device early).entries =
      t.entries.map fun e => if e.dest.onConsole then t.entryDrawn (sample (t.effective e)) e else e := by
    rw [Track.instantAt, Track.drawnAt, Track.stepRamp_eq]
    rfl
  rw [drawn]
  refine List.map_congr_left fun e _ => ?_
  cases e.dest <;> rfl

theorem Track.slipsAt_iff (A : Dest → Bool) :
    t.slipsAt A = true ↔ ∃ e ∈ t.entries, A e.dest = true ∧ t.keepsLag e = true ∧ e.lag = 0 := by
  simp [Track.slipsAt, Track.slipsOnDraw]

theorem Dest.onConsole_iff (d : Dest) : d.onConsole = true ↔ ∃ n, d = .console n := by
  cases d <;> simp [Dest.onConsole]

theorem Track.instantAt_slipped : (t.instantAt sample device early).slipped = true ↔ t.slipped = true ∨
    ∃ e ∈ t.entries, (∃ n, e.dest = .console n) ∧ t.keepsLag e = true ∧ e.lag = 0 := by
  have slipped : (t.instantAt sample device early).slipped = (t.slipped || t.slipsAt Dest.onConsole) := by
    rw [Track.instantAt, Track.drawnAt, Track.slipsAt_stepRamp, Track.stepRamp_eq]
  simp only [slipped, Bool.or_eq_true, Track.slipsAt_iff, Dest.onConsole_iff]

theorem Dest.atStep_iff (before : Bool) (d : Dest) :
    d.atStep early before = true ↔ ∃ n, d = .console n ∧ early.getLsbD n.1 = before := by
  cases d <;> simp [Dest.atStep]

theorem Track.clipsAt_iff (A : Dest → Bool) : t.clipsAt sample device .w24 A = true ↔
    ∃ e ∈ t.entries, A e.dest = true ∧ t.clips device .w24 (t.drawn (sample (t.effective e)) e) = true := by
  simp [Track.clipsAt]

/-- The values limited after the ramp step are those of the stepped record. -/
theorem Track.clipsAt_stepRamp (A : Dest → Bool) : t.stepRamp.clipsAt sample device .w24 A = true ↔
    ∃ e ∈ t.entries, A e.dest = true ∧ t.stepRamp.clips device .w24 (t.drawn (sample (t.effective e)) e) = true := by
  rw [Track.clipsAt_iff]
  have step := t.stepRamp_eq
  generalize t.stepRamp = u at step ⊢
  rw [step]
  rfl

theorem Track.instantAt_clipped : (t.instantAt sample device early).clipped = true ↔ t.clipped = true ∨
    ∃ e ∈ t.entries, ∃ n, e.dest = .console n ∧
      (if early.getLsbD n.1 then t else t.stepRamp).clips device .w24 (t.drawn (sample (t.effective e)) e) = true := by
  have clipped : (t.instantAt sample device early).clipped = (t.clipped ||
      t.clipsAt sample device .w24 (Dest.atStep early true) ||
      t.stepRamp.clipsAt sample device .w24 (Dest.atStep early false)) := rfl
  rw [clipped, Bool.or_eq_true, Bool.or_eq_true, Track.clipsAt_iff, Track.clipsAt_stepRamp, or_assoc]
  simp only [Dest.atStep_iff]
  refine or_congr_right ⟨?_, ?_⟩
  · rintro (⟨e, mem, ⟨n, here, before⟩, clips⟩ | ⟨e, mem, ⟨n, here, after⟩, clips⟩)
    · exact ⟨e, mem, n, here, by rwa [if_pos before]⟩
    · exact ⟨e, mem, n, here, by rwa [after, if_neg Bool.false_ne_true]⟩
  · rintro ⟨e, mem, n, here, clips⟩
    cases step : early.getLsbD n.1 with
    | true =>
      rw [if_pos step] at clips
      exact .inl ⟨e, mem, ⟨n, here, step⟩, clips⟩
    | false =>
      rw [step, if_neg Bool.false_ne_true] at clips
      exact .inr ⟨e, mem, ⟨n, here, step⟩, clips⟩

theorem Track.samePlace_instantAt : t.SamePlace (t.instantAt sample device early) := by
  have stepped := t.samePlace_stepRamp
  have drawn := t.stepRamp.samePlace_drawnAt sample device .w24 Dest.onConsole
  exact ⟨drawn.1.trans stepped.1, drawn.2.trans stepped.2⟩

end

/-! ### What one instant leaves of the part -/

section
variable {s : State} (early : BitVec 64)

theorem State.instantWork_map (s : State) : (s.instantWork early).table.map = s.table.map :=
  (State.slipsOnly_draws _ .w24 ((consoleChannels early false).map .console)).map.trans
    (s.slipsOnly_draws .w24 ((consoleChannels early true).map .console)).map

variable (sound : s.table.Sound)
include sound

theorem State.sound_instantWork : (s.instantWork early).table.Sound := by
  rw [(s.instantWork_sound sound early).2.1]
  exact sound.mapTracks fun t => t.samePlace_instantAt _ _ _

theorem State.holds_instantWork {i : Fin 256} {v u : Track} (hv : s.table.holds i v)
    (hu : (s.instantWork early).table.holds i u) : u = v.instantAt s.sampleAt s.gain.rounding early := by
  rw [(s.instantWork_sound sound early).2.1, State.holds_mapTracks] at hu
  obtain ⟨t, ht, rfl⟩ := hu
  rw [Option.some.inj (hv.symm.trans ht)]

theorem State.instantWork_holds {i : Fin 256} {v : Track} (hv : s.table.holds i v) :
    (s.instantWork early).table.holds i (v.instantAt s.sampleAt s.gain.rounding early) := by
  rw [(s.instantWork_sound sound early).2.1, State.holds_mapTracks]
  exact ⟨v, hv, rfl⟩

/-- The sample sent on an owned channel (R123, R128 to R131). -/
theorem State.instantWork_sample {n : Fin 64} {i : Fin 256} {v : Track} {e : Entry}
    (owns : s.table.owning (.console n) = some (i, v, e)) :
    ((consoleSamples (s.instantWork early).consoleOut).get n).toInt =
      (if early.getLsbD n.1 then v else v.stepRamp).shape s.gain.rounding .w24 (v.drawn (s.sampleAt (v.effective e)) e) := by
  have value := congrFun (s.instantWork_sound sound early).1 n
  rw [State.instantWork_consoleOut, consoleSamples_channelFrame, value]
  cases step : early.getLsbD n.1 with
  | true =>
    rw [if_pos rfl, if_pos rfl, toInt_ofInt_of_mem (s.draw_mem ..), State.draw_owned owns]
  | false =>
    have halfway : (s.halfway early).table.owning (.console n) =
        some (i, (v.drawnAt s.sampleAt s.gain.rounding .w24 (Dest.atStep early true)).stepRamp, e) := by
      obtain ⟨held, mem, here⟩ := sound.owning_iff.1 owns
      refine (s.sound_halfway sound early).owning_iff.2 ⟨?_, ?_, here⟩
      · exact State.holds_mapTracks.2 ⟨_, State.holds_mapTracks.2 ⟨v, held, rfl⟩, rfl⟩
      · rw [Track.stepRamp_eq]
        refine List.mem_map.2 ⟨e, mem, ?_⟩
        simp only [here, Dest.atStep, step]
        rfl
    rw [if_neg Bool.false_ne_true, if_neg Bool.false_ne_true, toInt_ofInt_of_mem (State.draw_mem ..),
      State.draw_owned halfway, Track.stepRamp_drawnAt]
    have stepped := v.stepRamp_eq
    generalize v.stepRamp = u at stepped ⊢
    rw [stepped]
    rfl

/-- The entry drawn for an owned channel (R103 to R105). -/
theorem State.instantWork_entry {n : Fin 64} {i : Fin 256} {v : Track} {e : Entry}
    (owns : s.table.owning (.console n) = some (i, v, e)) : ∃ u, (s.instantWork early).table.holds i u ∧
      u.entryFor (.console n) = some (v.entryDrawn (s.sampleAt (v.effective e)) e) := by
  obtain ⟨held, mem, here⟩ := sound.owning_iff.1 owns
  have after := s.instantWork_holds early sound held
  have dest : (v.entryDrawn (s.sampleAt (v.effective e)) e).dest = .console n := (v.entryDrawn_dest _ e).trans here
  refine ⟨_, after, ?_⟩
  rw [← dest]
  refine Track.entryFor_of_mem ((s.sound_instantWork early sound).1 i _ after) ?_
  rw [Track.instantAt_entries]
  exact List.mem_map.2 ⟨e, mem, by rw [here]⟩

theorem State.instantWork_slips : s.attn.Reports (s.instantWork early).attn .slip
    (∃ n i v e, s.table.owning (.console n) = some (i, v, e) ∧ v.keepsLag e = true ∧ e.lag = 0) := by
  refine ⟨_, ?_, (s.instantWork_sound sound early).2.2⟩
  simp only [State.anyTrack_iff, Track.slipsAt_iff, Dest.onConsole_iff]
  constructor
  · rintro ⟨i, v, held, e, mem, ⟨n, here⟩, slips⟩
    exact ⟨n, i, v, e, sound.owning_iff.2 ⟨held, mem, here⟩, slips⟩
  · rintro ⟨n, i, v, e, owns, slips⟩
    obtain ⟨held, mem, here⟩ := sound.owning_iff.1 owns
    exact ⟨i, v, held, e, mem, ⟨n, here⟩, slips⟩

end
/-! ### The event -/

/-- The part as the work of an instant finds it: the work owed, or that of the next instant (R27; log 10). -/
def State.atInstant (s : State) : State := { s with
  ref := { s.ref with emitted := if s.ref.owed then s.ref.emitted else s.ref.emitted + 1, owed := false }
  now := if s.ref.owed then s.now else max s.now (s.ref.instantDue s.ref.emitted) }

theorem exec_referenceSampleInstant (early : BitVec 64) (s : State) :
    exec (.referenceSampleInstant early) s = execReferenceSampleInstant early s := rfl

section
variable {s : State} (released : s.resetHeld = false) (early : BitVec 64)
include released

theorem exec_instant_owed (owed : s.ref.owed = true) :
    exec (.referenceSampleInstant early) s = .next (s.workInstant early) := by
  rw [exec_referenceSampleInstant, execReferenceSampleInstant, State.running_released released, if_pos owed]

theorem exec_instant_over (settled : s.ref.owed = false) (done : s.ref.format.samples s.ref.phase ≤ s.ref.emitted) :
    exec (.referenceSampleInstant early) s = .next s := by
  have none' : ¬s.ref.instantLeft = true := mt s.ref.instantLeft_iff.1 (Nat.not_lt.2 done)
  rw [exec_referenceSampleInstant, execReferenceSampleInstant, State.running_released released, settled,
    if_neg Bool.false_ne_true, if_neg none']

theorem exec_instant (due : s.ref.owed = true ∨ s.ref.emitted < s.ref.format.samples s.ref.phase) :
    exec (.referenceSampleInstant early) s = .next (s.atInstant.instantWork early) := by
  cases owed : s.ref.owed with
  | true =>
    have found : s.atInstant = s.withRef { s.ref with owed := false } := by
      simp only [State.atInstant, owed, if_true]
      rfl
    rw [exec_instant_owed released early owed, found]
    rfl
  | false =>
    have left := s.ref.instantLeft_iff.2 (due.resolve_left (by simp [owed]))
    have found : s.atInstant = s.emitInstant.withRef { s.emitInstant.ref with owed := false } := by
      simp only [State.atInstant, owed]
      rfl
    rw [exec_referenceSampleInstant, execReferenceSampleInstant, State.running_released released, owed,
      if_neg Bool.false_ne_true, if_pos left, found]
    rfl
end

/-- Settles O47: the draws of an instant, on either side of its ramp step, are one draw of every console channel. -/
theorem instantsDrawTheConsoleAndStepRamps : Obligations.InstantsDrawTheConsoleAndStepRamps := by
  intro s early released
  refine ⟨exec_instant_over released early, State.completeInstant_idle, fun owed => ?_, fun due => ?_⟩
  · rw [exec_instant_owed released 0 owed, State.completeInstant_owed owed]
  have frame := (s.atInstant.instantWork_frame early).1
  have counts := s.atInstant.keepsCounts_instantWork early
  have records := s.atInstant.related_instantWork early
  refine ⟨_, exec_instant released early due, congrArg State.ref frame, congrArg State.now frame,
    channelFrame_length _, channelFrame_framed _, fun n ownerless => ?_, records.isSome, fun i v u hv hu => ?_,
    fun sound i v u hv hu => ?_, fun sound n i v e owns => ⟨State.instantWork_sample (s := s.atInstant) early sound owns,
      State.instantWork_entry (s := s.atInstant) early sound owns⟩, fun i v u hv hu => (records.holds hv hu).1,
    fun sound i v u hv hu => ?_, fun sound => State.instantWork_slips (s := s.atInstant) early sound,
    s.atInstant.instantWork_map early,
    counts.1, counts.2.1, (congrArg State.rx frame :), (congrArg State.tx frame :), (congrArg State.console frame :),
    (congrArg State.gain frame :), (congrArg State.port frame :), (congrArg State.pending frame :)⟩
  · rw [State.instantWork_consoleOut, consoleSamples_channelFrame, State.instantValue_ownerless s.atInstant early ownerless]
    rfl
  · have record := (records.holds hv hu).1
    rw [record, v.stepRamp_eq]
    exact ⟨rfl, rfl, rfl, rfl, rfl, rfl⟩
  · rw [State.holds_instantWork (s := s.atInstant) early sound hv hu, Track.instantAt_entries, List.map_map]
    refine List.map_congr_left fun e _ => ?_
    rw [Function.comp_apply]
    split
    · rw [Track.entryDrawn_dest, Track.entryDrawn_phase, Track.entryDrawn_taken]
    · rfl
  · rw [State.holds_instantWork (s := s.atInstant) early sound hv hu]
    exact ⟨v.instantAt_entries .., v.instantAt_slipped .., v.instantAt_clipped ..⟩

end Sys2Proof.Machine
end

section
/-! The fields of commands, read from their bytes (spec 12 section 12.1): which bytes are in range, and what they stand
for. A field that is read is read as one value exactly, the one whose code its bytes are. -/

namespace Sys2Proof.Machine

/-! ### Numbers and indices (R181) -/

theorem nat16_eq (h l : Byte) : nat16 h l = 256 * h.toNat + l.toNat := by rw [nat16, Nat.mul_comm]

theorem readLabel_eq_some_iff {h l : Byte} {n : Nat} :
    readLabel h l = some n ↔ n = 256 * h.toNat + l.toNat ∧ n ≠ 0 := by
  rw [readLabel, nat16_eq]
  split
  · next zero => simp [zero]
  · next other =>
    rw [Option.some_inj, eq_comm]
    exact ⟨fun same => ⟨same, same ▸ other⟩, And.left⟩

theorem readIndex_eq_some_iff {n : Nat} {b : Byte} {i : Fin n} : readIndex n b = some i ↔ b.toNat = i.1 := by
  rw [readIndex]
  split
  · rw [Option.some_inj, Fin.ext_iff]
  · next out => exact ⟨nofun, fun same => absurd (same ▸ i.2) out⟩

/-! ### Codes (R115, R147, R160, R162, R181) -/

section
variable {b : Byte}

theorem readBool_eq_some_iff {x : Bool} : readBool b = some x ↔ b = boolByte x := by
  constructor
  · unfold readBool
    split_ifs with zero one <;> rintro ⟨⟩
    · exact zero
    · exact one
  · rintro rfl
    cases x <;> rfl

theorem readDefaultRounding_eq_some_iff {m : Rounding} : readDefaultRounding b = some m ↔ b = roundingByte (some m) := by
  constructor
  · unfold readDefaultRounding
    split_ifs with zero one two <;> rintro ⟨⟩
    · exact zero
    · exact one
    · exact two
  · rintro rfl
    cases m <;> rfl

theorem readRounding_eq_some_iff {m : Option Rounding} : readRounding b = some m ↔ b = roundingByte m := by
  constructor
  · unfold readRounding
    split_ifs with three
    · rintro ⟨⟩
      exact three
    · intro h
      obtain ⟨own, read, rfl⟩ := Option.map_eq_some_iff.1 h
      exact readDefaultRounding_eq_some_iff.1 read
  · rintro rfl
    cases m with
    | none => rfl
    | some m => cases m <;> rfl

theorem readDisposition_eq_some_iff {d : Disposition} : readDisposition b = some d ↔ b = d.code := by
  constructor
  · unfold readDisposition
    split_ifs with zero one two <;> rintro ⟨⟩
    · exact zero
    · exact one
    · exact two
  · rintro rfl
    cases d <;> rfl

theorem readWordLength_eq_some_iff {w : WordLength} : readWordLength b = some w ↔ b = w.code := by
  constructor
  · unfold readWordLength
    split_ifs with short long <;> rintro ⟨⟩
    · exact short
    · exact long
  · rintro rfl
    cases w <;> rfl

theorem readFormat_eq_some_iff {f : Format} : readFormat b = some f ↔ b = f.code := by
  constructor
  · intro h
    simpa [eq_comm] using List.find?_some h
  · rintro rfl
    cases f <;> rfl

theorem readSelectorA_eq_some_iff {o : Option Occurrence} : readSelectorA b = some o ↔ b = selectorAByte o := by
  constructor
  · intro h
    simpa [eq_comm] using List.find?_some h
  · rintro rfl
    cases o with
    | none => rfl
    | some o => cases o <;> rfl

theorem readSelectorB_eq_some_iff {x : SelectorB} : readSelectorB b = some x ↔ b = x.code := by
  constructor
  · unfold readSelectorB
    split_ifs with zero one two <;> rintro ⟨⟩
    · exact zero
    · exact one
    · exact two
  · rintro rfl
    cases x <;> rfl

theorem readFilter_eq_some_iff {filter : Option (Fin 8)} :
    readFilter b = some filter ↔ b.toNat = filter.elim 255 Fin.val := by
  unfold readFilter
  split_ifs with any
  · cases filter with
    | none => simp [any]
    | some l =>
      refine ⟨nofun, fun same => ?_⟩
      have := l.2
      have : (255 : Byte).toNat = l.1 := any ▸ same
      simp at this
      omega
  · cases filter with
    | none =>
      refine ⟨fun h => ?_, fun same => absurd (BitVec.eq_of_toNat_eq same) any⟩
      obtain ⟨l, -, wrong⟩ := Option.map_eq_some_iff.1 h
      cases wrong
    | some l => simpa using readIndex_eq_some_iff

/-! ### Which bytes are in range -/

theorem readBool_isSome : (readBool b).isSome ↔ b.toNat ≤ 1 := by
  simp only [Option.isSome_iff_exists, readBool_eq_some_iff]
  constructor
  · rintro ⟨x, rfl⟩
    cases x <;> decide
  · intro range
    obtain zero | one : b = 0 ∨ b = 1 := by bv_omega
    · exact ⟨false, zero⟩
    · exact ⟨true, one⟩

theorem readRounding_isSome : (readRounding b).isSome ↔ b.toNat ≤ 3 := by
  simp only [Option.isSome_iff_exists, readRounding_eq_some_iff]
  constructor
  · rintro ⟨m, rfl⟩
    rcases m with _ | (_ | _ | _) <;> decide
  · intro range
    obtain zero | one | two | three : b = 0 ∨ b = 1 ∨ b = 2 ∨ b = 3 := by bv_omega
    · exact ⟨some .nearestEven, zero⟩
    · exact ⟨some .floor, one⟩
    · exact ⟨some .towardZero, two⟩
    · exact ⟨none, three⟩

theorem readDisposition_isSome : (readDisposition b).isSome ↔ b.toNat ≤ 2 := by
  simp only [Option.isSome_iff_exists, readDisposition_eq_some_iff]
  constructor
  · rintro ⟨d, rfl⟩
    cases d <;> decide
  · intro range
    obtain zero | one | two : b = 0 ∨ b = 1 ∨ b = 2 := by bv_omega
    · exact ⟨.pass, zero⟩
    · exact ⟨.embed, one⟩
    · exact ⟨.strip, two⟩

theorem readWordLength_isSome : (readWordLength b).isSome ↔ b.toNat = 20 ∨ b.toNat = 24 := by
  simp only [Option.isSome_iff_exists, readWordLength_eq_some_iff]
  constructor
  · rintro ⟨w, rfl⟩
    cases w <;> decide
  · rintro (short | long)
    · exact ⟨.w20, BitVec.eq_of_toNat_eq short⟩
    · exact ⟨.w24, BitVec.eq_of_toNat_eq long⟩

theorem readFormat_isSome : (readFormat b).isSome ↔ 1 ≤ b.toNat ∧ b.toNat ≤ 6 := by
  simp only [Option.isSome_iff_exists, readFormat_eq_some_iff]
  constructor
  · rintro ⟨f, rfl⟩
    cases f <;> decide
  · rintro ⟨low, high⟩
    obtain h | h | h | h | h | h : b = 1 ∨ b = 2 ∨ b = 3 ∨ b = 4 ∨ b = 5 ∨ b = 6 := by bv_omega
    · exact ⟨.p1, h⟩
    · exact ⟨.p2, h⟩
    · exact ⟨.p3, h⟩
    · exact ⟨.p4, h⟩
    · exact ⟨.p5, h⟩
    · exact ⟨.p6, h⟩

theorem readFilter_isSome : (readFilter b).isSome ↔ b.toNat ≤ 7 ∨ b.toNat = 255 := by
  simp only [Option.isSome_iff_exists, readFilter_eq_some_iff]
  constructor
  · rintro ⟨filter, same⟩
    cases filter with
    | none => exact .inr same
    | some l =>
      have := l.2
      exact .inl (same ▸ Nat.le_of_lt_succ this)
  · rintro (lane | any)
    · exact ⟨some ⟨b.toNat, by omega⟩, rfl⟩
    · exact ⟨none, any⟩

/-- The rounding modes in the order of their codes (R115). -/
theorem eq_roundingByte_iff {m : Option Rounding} :
    b = roundingByte m ↔ [some .nearestEven, some .floor, some .towardZero, none][b.toNat]? = some m := by
  constructor
  · rintro rfl
    rcases m with _ | (_ | _ | _) <;> rfl
  · intro place
    have range : b.toNat < 4 := (List.getElem?_eq_some_iff.1 place).1
    obtain rfl | rfl | rfl | rfl : b = 0 ∨ b = 1 ∨ b = 2 ∨ b = 3 := by bv_omega
    all_goals
      cases place
      rfl

/-- The formats in the order of their codes (R1). -/
theorem eq_formatCode_iff {f : Format} :
    b = f.code ↔ 1 ≤ b.toNat ∧ [Format.p1, .p2, .p3, .p4, .p5, .p6][b.toNat - 1]? = some f := by
  constructor
  · rintro rfl
    cases f <;> exact ⟨by decide, rfl⟩
  · rintro ⟨low, place⟩
    have range : b.toNat - 1 < 6 := (List.getElem?_eq_some_iff.1 place).1
    obtain rfl | rfl | rfl | rfl | rfl | rfl : b = 1 ∨ b = 2 ∨ b = 3 ∨ b = 4 ∨ b = 5 ∨ b = 6 := by bv_omega
    all_goals
      cases place
      rfl
end

/-! ### Destinations and sources (R181) -/

theorem readDest_eq_some_iff {k l g c : Byte} {d : Dest} : readDest k l g c = some d ↔
    (∃ a : Fin 8, ∃ b e : Fin 4, d = .lane a b e ∧ k = 1 ∧ l.toNat = a.1 ∧ g.toNat = b.1 + 1 ∧ c.toNat = e.1 + 1) ∨
      ∃ n : Fin 64, d = .console n ∧ k = 2 ∧ c.toNat = n.1 + 1 := by
  unfold readDest
  split_ifs with lane console
  · simp only [Option.bind_eq_bind, Option.bind_eq_some_iff, readIndex_eq_some_iff, readNumber_eq_some_iff]
    constructor
    · rintro ⟨a, ha, b, hb, e, he, made⟩
      exact .inl ⟨a, b, e, (Option.some.inj made).symm, lane, ha, hb.symm, he.symm⟩
    · rintro (⟨a, b, e, rfl, -, ha, hb, he⟩ | ⟨n, -, wrong, -⟩)
      · exact ⟨a, ha, b, hb.symm, e, he.symm, rfl⟩
      · exact absurd (lane.symm.trans wrong) (by decide)
  · simp only [Option.map_eq_some_iff, readNumber_eq_some_iff]
    constructor
    · rintro ⟨n, hn, rfl⟩
      exact .inr ⟨n, rfl, console, hn.symm⟩
    · rintro (⟨a, b, e, -, wrong, -⟩ | ⟨n, rfl, -, hn⟩)
      · exact absurd wrong lane
      · exact ⟨n, hn.symm, rfl⟩
  · refine ⟨nofun, ?_⟩
    rintro (⟨a, b, e, -, wrong, -⟩ | ⟨n, -, wrong, -⟩)
    · exact absurd wrong lane
    · exact absurd wrong console

theorem readSource_eq_some_iff {k l g c : Byte} {x : Source} : readSource k l g c = some x ↔ (k = 0 ∧ x = .none) ∨
    (∃ a : Fin 8, ∃ b e : Fin 4, x = .lane a b e ∧ k = 1 ∧ l.toNat = a.1 ∧ g.toNat = b.1 + 1 ∧ c.toNat = e.1 + 1) ∨
      ∃ n : Fin 64, x = .console n ∧ k = 2 ∧ c.toNat = n.1 + 1 := by
  unfold readSource
  split_ifs with zero
  · subst zero
    constructor
    · rintro ⟨⟩
      exact .inl ⟨rfl, rfl⟩
    · rintro (⟨-, rfl⟩ | ⟨a, b, e, -, wrong, -⟩ | ⟨n, -, wrong, -⟩)
      · rfl
      · exact absurd wrong (by decide)
      · exact absurd wrong (by decide)
  · simp only [Option.map_eq_some_iff, readDest_eq_some_iff]
    constructor
    · rintro ⟨d, ⟨a, b, e, rfl, fields⟩ | ⟨n, rfl, fields⟩, rfl⟩
      · exact .inr (.inl ⟨a, b, e, rfl, fields⟩)
      · exact .inr (.inr ⟨n, rfl, fields⟩)
    · rintro (⟨wrong, -⟩ | ⟨a, b, e, rfl, fields⟩ | ⟨n, rfl, fields⟩)
      · exact absurd wrong zero
      · exact ⟨.lane a b e, .inl ⟨a, b, e, rfl, fields⟩, rfl⟩
      · exact ⟨.console n, .inr ⟨n, rfl, fields⟩, rfl⟩

/-! ### Short commands (R30, R71, R84, R154) -/

theorem readGuard_eq_some_iff {h l b : Byte} {rest : List Byte} {n : Nat} {on : Bool} :
    readGuard (h :: l :: b :: rest) = some (n, on) ↔ (n = 256 * h.toNat + l.toNat ∧ n ≠ 0) ∧ b = boolByte on := by
  simp [readGuard, Option.bind_eq_some_iff, ← readLabel_eq_some_iff, ← readBool_eq_some_iff]

theorem readAttach_eq_some_iff {h l k a g c : Byte} {rest : List Byte} {n : Nat} {d : Dest} :
    readAttach (h :: l :: k :: a :: g :: c :: rest) = some (n, d) ↔
      (n = 256 * h.toNat + l.toNat ∧ n ≠ 0) ∧ readDest k a g c = some d := by
  simp [readAttach, Option.bind_eq_some_iff, ← readLabel_eq_some_iff]

/-- The source of a REFERENCE (R30). -/
def readRefSource (k l : Byte) : Option RefSource :=
  if k = 0 then some .house else if k = 1 then (readIndex 8 l).map .lane else if k = 2 then some .free else none

theorem readReference_eq (k l f : Byte) (rest : List Byte) : readReference (k :: l :: f :: rest) =
    (readRefSource k l).bind fun src => (readFormat f).bind fun fmt => some (src, fmt) := by
  unfold readReference readRefSource
  dsimp only
  split_ifs <;> rfl

theorem readRefSource_eq_some_iff {k l : Byte} {src : RefSource} : readRefSource k l = some src ↔
    (k = 0 ∧ src = .house ∨ (∃ a : Fin 8, k = 1 ∧ l.toNat = a.1 ∧ src = .lane a) ∨ k = 2 ∧ src = .free) := by
  unfold readRefSource
  split_ifs with house lane free
  · simp [house, eq_comm]
  · simp only [lane, Option.map_eq_some_iff, readIndex_eq_some_iff]
    simp [eq_comm]
  · simp [free, eq_comm]
  · simp only [house, lane, free, false_and, exists_false, or_self]

theorem readReference_eq_some_iff {k l f : Byte} {rest : List Byte} {src : RefSource} {fmt : Format} :
    readReference (k :: l :: f :: rest) = some (src, fmt) ↔ readRefSource k l = some src ∧ f = fmt.code := by
  simp [readReference_eq, Option.bind_eq_some_iff, readFormat_eq_some_iff]

theorem readSurvey_isSome {c1 c0 m p1 p2 p3 f : Byte} {rest : List Byte} :
    (readSurvey (c1 :: c0 :: m :: p1 :: p2 :: p3 :: f :: rest)).isSome ↔ f.toNat ≤ 7 ∨ f.toNat = 255 := by
  rw [← readFilter_isSome, readSurvey]
  cases readFilter f <;> simp

end Sys2Proof.Machine
end

section
/-! LANE, ADMIT and AMEND, read from their bytes (spec 12 section 12.2), and the ranges of every command's fields. -/

namespace Sys2Proof.Machine

/-! ### LANE (R147) -/

theorem readGroupSetting_eq_some_iff {d w : Byte} {x : GroupSetting} :
    readGroupSetting d w = some x ↔ d = x.disposition.code ∧ w = x.word.code := by
  simp only [readGroupSetting, Option.bind_eq_bind, Option.bind_eq_some_iff, readDisposition_eq_some_iff,
    readWordLength_eq_some_iff]
  constructor
  · rintro ⟨disposition, hd, word, hw, made⟩
    obtain rfl := Option.some.inj made
    exact ⟨hd, hw⟩
  · exact fun ⟨hd, hw⟩ => ⟨x.disposition, hd, x.word, hw, rfl⟩

/-- A lane setting is that of its four groups. -/
theorem LaneSetting.eq_iff {x : LaneSetting} {g1 g2 g3 g4 : GroupSetting} :
    (⟨[g1, g2, g3, g4], rfl⟩ : LaneSetting) = x ↔ g1 = x.get 0 ∧ g2 = x.get 1 ∧ g3 = x.get 2 ∧ g4 = x.get 3 := by
  constructor
  · rintro rfl
    exact ⟨rfl, rfl, rfl, rfl⟩
  · rintro ⟨h1, h2, h3, h4⟩
    refine Bank.ext_get fun i => ?_
    fin_cases i
    · exact h1
    · exact h2
    · exact h3
    · exact h4

theorem readLane_eq_some_iff {l d1 w1 d2 w2 d3 w3 d4 w4 : Byte} {rest : List Byte} {a : Fin 8} {x : LaneSetting} :
    readLane (l :: d1 :: w1 :: d2 :: w2 :: d3 :: w3 :: d4 :: w4 :: rest) = some (a, x) ↔ l.toNat = a.1 ∧
      [(d1, w1), (d2, w2), (d3, w3), (d4, w4)] =
        ([0, 1, 2, 3] : List (Fin 4)).map fun g => ((x.get g).disposition.code, (x.get g).word.code) := by
  simp only [readLane, Option.bind_eq_bind, Option.bind_eq_some_iff, readIndex_eq_some_iff,
    readGroupSetting_eq_some_iff, List.map_cons, List.map_nil, List.cons.injEq, Prod.mk.injEq, and_true]
  constructor
  · rintro ⟨lane, hl, g1, h1, g2, h2, g3, h3, g4, h4, made⟩
    obtain ⟨rfl, rfl⟩ := Prod.mk.inj (Option.some.inj made)
    exact ⟨hl, h1, h2, h3, h4⟩
  · rintro ⟨hl, h1, h2, h3, h4⟩
    refine ⟨a, hl, x.get 0, h1, x.get 1, h2, x.get 2, h3, x.get 3, h4, ?_⟩
    rw [LaneSetting.eq_iff.2 ⟨rfl, rfl, rfl, rfl⟩]
    rfl

/-! ### ADMIT (R59) -/

/-- Destinations stand one behind the other, four bytes each. -/
theorem readDests_eq_some_iff {n : Nat} {bs : List Byte} {ds : List Dest} : readDests n bs = some ds ↔
    n = ds.length ∧ 4 * n ≤ bs.length ∧ ∀ j d, ds[j]? = some d →
      readDest (bs.getD (4 * j) 0) (bs.getD (4 * j + 1) 0) (bs.getD (4 * j + 2) 0) (bs.getD (4 * j + 3) 0) = some d := by
  induction n generalizing bs ds with
  | zero => cases ds <;> simp [readDests]
  | succ n ih =>
    match bs with
    | k :: l :: g :: c :: rest =>
      cases ds with
      | nil => simp [readDests, Option.bind_eq_some_iff]
      | cons d ds =>
        have first : readDests (n + 1) (k :: l :: g :: c :: rest) = some (d :: ds) ↔
            readDest k l g c = some d ∧ readDests n rest = some ds := by
          simp [readDests, Option.bind_eq_some_iff]
        have later (j i : Nat) : (k :: l :: g :: c :: rest).getD (4 * (j + 1) + i) 0 = rest.getD (4 * j + i) 0 := by
          rw [show 4 * (j + 1) + i = 4 * j + i + 1 + 1 + 1 + 1 by omega]
          rfl
        rw [first, ih]
        simp only [List.length_cons]
        constructor
        · rintro ⟨head, count, room, tail⟩
          refine ⟨by omega, by omega, fun j d' place => ?_⟩
          cases j with
          | zero =>
            cases place
            exact head
          | succ j =>
            rw [later j 1, later j 2, later j 3]
            exact (later j 0).symm ▸ tail j d' place
        · rintro ⟨count, room, every⟩
          refine ⟨every 0 d rfl, by omega, by omega, fun j d' place => ?_⟩
          have here := every (j + 1) d' place
          rw [later j 1, later j 2, later j 3] at here
          exact later j 0 ▸ here
    | [] | [_] | [_, _] | [_, _, _] =>
      refine ⟨nofun, fun ⟨_, room, _⟩ => ?_⟩
      simp only [List.length_cons, List.length_nil] at room
      omega

theorem readAdmit_eq_some_iff {h l k a g c g1 g0 mu iv ro n : Byte} {rest : List Byte} {r : AdmitRequest} :
    readAdmit (h :: l :: k :: a :: g :: c :: g1 :: g0 :: mu :: iv :: ro :: n :: rest) = some r ↔
      (r.label = 256 * h.toNat + l.toNat ∧ r.label ≠ 0) ∧ readSource k a g c = some r.source ∧
      r.setGain = 256 * g1.toNat + g0.toNat ∧ mu = boolByte r.muted ∧ iv = boolByte r.inverted ∧
      ro = roundingByte r.rounding ∧ n.toNat ≤ 8 ∧ readDests n.toNat rest = some r.dests ∧ r.dests.Nodup := by
  unfold readAdmit
  simp only [Option.bind_eq_bind, Option.bind_eq_some_iff, readLabel_eq_some_iff, readBool_eq_some_iff,
    readRounding_eq_some_iff, nat16_eq]
  constructor
  · rintro ⟨label, named, source, hs, muted, hm, inverted, hi, rounding, hr, made⟩
    split_ifs at made with eight
    · obtain ⟨ds, read, made⟩ := Option.bind_eq_some_iff.1 made
      split_ifs at made with distinct
      obtain rfl := Option.some.inj made
      exact ⟨named, hs, rfl, hm, hi, hr, eight, read, distinct⟩
    · cases made
  · rintro ⟨named, hs, gain, hm, hi, hr, eight, read, distinct⟩
    refine ⟨r.label, named, r.source, hs, r.muted, hm, r.inverted, hi, r.rounding, hr, ?_⟩
    rw [if_pos (show n.toNat ≤ Config.listLimit from eight), read, Option.bind_some, if_pos distinct, ← gain]
    rfl

/-! ### AMEND (R89) -/

/-- A field, with what follows it, stands where its bytes stand. -/
theorem readItem_eq_some_iff {α : Type} {read : List Byte → Option (α × List Byte)} {field : List Byte → α → Prop}
    (reads : ∀ bs x rest, read bs = some (x, rest) ↔ ∃ taken, bs = taken ++ rest ∧ field taken x) {named : Bool}
    {bs rest : List Byte} {value : Option α} : readItem named read bs = some (value, rest) ↔
      ∃ taken, bs = taken ++ rest ∧ itemHeld named taken value field := by
  unfold readItem itemHeld
  cases named with
  | true =>
    simp only [if_true, Option.map_eq_some_iff, Prod.exists, reads, Prod.mk.injEq]
    constructor
    · rintro ⟨x, _, ⟨taken, split, held⟩, rfl, rfl⟩
      exact ⟨taken, split, x, held, rfl⟩
    · rintro ⟨taken, split, x, held, rfl⟩
      exact ⟨x, rest, ⟨taken, split, held⟩, rfl, rfl⟩
  | false =>
    constructor
    · rintro ⟨⟩
      exact ⟨[], rfl, rfl, rfl⟩
    · rintro ⟨_, rfl, rfl, rfl⟩
      rfl

theorem readGainField_eq_some_iff (bs : List Byte) (x : Nat) (rest : List Byte) : readGainField bs = some (x, rest) ↔
    ∃ taken, bs = taken ++ rest ∧ ∃ b1 b0 : Byte, taken = [b1, b0] ∧ x = 256 * b1.toNat + b0.toNat := by
  constructor
  · intro read
    match bs with
    | b1 :: b0 :: bs =>
      obtain ⟨rfl, rfl⟩ := Prod.mk.inj (Option.some.inj read)
      exact ⟨[b1, b0], rfl, b1, b0, rfl, nat16_eq b1 b0⟩
  · rintro ⟨_, rfl, b1, b0, rfl, rfl⟩
    rw [← nat16_eq]
    rfl

theorem readByteField_eq_some_iff {α : Type} {read : Byte → Option α} (bs : List Byte) (x : α) (rest : List Byte) :
    readByteField read bs = some (x, rest) ↔ ∃ taken, bs = taken ++ rest ∧ ∃ b, taken = [b] ∧ read b = some x := by
  constructor
  · intro reads
    match bs with
    | b :: bs =>
      obtain ⟨y, value, same⟩ := Option.map_eq_some_iff.1 reads
      obtain ⟨rfl, rfl⟩ := Prod.mk.inj same
      exact ⟨[b], rfl, b, rfl, value⟩
  · rintro ⟨_, rfl, b, rfl, value⟩
    exact Option.map_eq_some_iff.2 ⟨x, value, rfl⟩

theorem readSourceField_eq_some_iff (bs : List Byte) (x : Source) (rest : List Byte) :
    readSourceField bs = some (x, rest) ↔ ∃ taken, bs = taken ++ rest ∧
      ∃ k a g c : Byte, taken = [k, a, g, c] ∧ readSource k a g c = some x := by
  constructor
  · intro reads
    match bs with
    | k :: a :: g :: c :: bs =>
      obtain ⟨y, value, same⟩ := Option.map_eq_some_iff.1 reads
      obtain ⟨rfl, rfl⟩ := Prod.mk.inj same
      exact ⟨[k, a, g, c], rfl, k, a, g, c, rfl, value⟩
  · rintro ⟨_, rfl, k, a, g, c, rfl, value⟩
    exact Option.map_eq_some_iff.2 ⟨x, value, rfl⟩

theorem readItem_gain {named : Bool} {bs rest : List Byte} {value : Option Nat} :
    readItem named readGainField bs = some (value, rest) ↔ ∃ taken, bs = taken ++ rest ∧
      itemHeld named taken value fun b x => ∃ b1 b0 : Byte, b = [b1, b0] ∧ x = 256 * b1.toNat + b0.toNat :=
  readItem_eq_some_iff readGainField_eq_some_iff

theorem readItem_bool {named : Bool} {bs rest : List Byte} {value : Option Bool} :
    readItem named (readByteField readBool) bs = some (value, rest) ↔ ∃ taken, bs = taken ++ rest ∧
      itemHeld named taken value fun b x => b = [boolByte x] := by
  refine readItem_eq_some_iff fun bs x rest => ?_
  simp only [readByteField_eq_some_iff, readBool_eq_some_iff, exists_eq_right]

theorem readItem_rounding {named : Bool} {bs rest : List Byte} {value : Option (Option Rounding)} :
    readItem named (readByteField readRounding) bs = some (value, rest) ↔ ∃ taken, bs = taken ++ rest ∧
      itemHeld named taken value fun b x => b = [roundingByte x] := by
  refine readItem_eq_some_iff fun bs x rest => ?_
  simp only [readByteField_eq_some_iff, readRounding_eq_some_iff, exists_eq_right]

theorem readItem_source {named : Bool} {bs rest : List Byte} {value : Option Source} :
    readItem named readSourceField bs = some (value, rest) ↔ ∃ taken, bs = taken ++ rest ∧
      itemHeld named taken value fun b x => ∃ k a g c : Byte, b = [k, a, g, c] ∧ readSource k a g c = some x :=
  readItem_eq_some_iff readSourceField_eq_some_iff

/-- A clear item takes one byte, whatever it is (R127). -/
theorem readItem_clear {named : Bool} {bs rest : List Byte} {value : Option Byte} :
    readItem named (readByteField some) bs = some (value, rest) ↔ bs = value.toList ++ rest ∧ value.isSome = named := by
  have field := readItem_eq_some_iff (named := named) (bs := bs) (rest := rest) (value := value)
    (readByteField_eq_some_iff (read := some))
  rw [field]
  unfold itemHeld
  cases named with
  | true =>
    simp only [if_true]
    constructor
    · rintro ⟨_, rfl, x, ⟨b, rfl, same⟩, rfl⟩
      cases same
      exact ⟨rfl, rfl⟩
    · rintro ⟨split, held⟩
      obtain ⟨b, rfl⟩ := Option.isSome_iff_exists.1 held
      exact ⟨[b], split, b, ⟨b, rfl, rfl⟩, rfl⟩
  | false =>
    simp only [if_neg Bool.false_ne_true]
    constructor
    · rintro ⟨_, rfl, rfl, rfl⟩
      exact ⟨rfl, rfl⟩
    · rintro ⟨split, held⟩
      obtain rfl := Option.isSome_eq_false_iff.1 held |> Option.isNone_iff_eq_none.1
      exact ⟨[], split, rfl, rfl⟩

/-- Bytes as many as a clear item takes. -/
theorem length_eq_toNat_iff {bs : List Byte} {named : Bool} :
    bs.length = named.toNat ↔ ∃ value : Option Byte, bs = value.toList ∧ value.isSome = named := by
  constructor
  · intro length
    cases named with
    | true =>
      obtain ⟨b, rfl⟩ := List.length_eq_one_iff.1 length
      exact ⟨some b, rfl, rfl⟩
    | false => exact ⟨none, List.length_eq_zero_iff.1 length, rfl⟩
  · rintro ⟨value, rfl, rfl⟩
    cases value <;> rfl

theorem getLsbD_seven (m : Byte) : m.getLsbD 7 = true ↔ 128 ≤ m.toNat := by
  have msb := BitVec.msb_eq_decide m
  rw [BitVec.msb_eq_getLsbD_last] at msb
  simpa using congrArg (· = true) msb

theorem readAmend_of_mask {h l m : Byte} {bs : List Byte} (wide : 128 ≤ m.toNat) : readAmend (h :: l :: m :: bs) = none := by
  have bit := (getLsbD_seven m).2 wide
  simp only [readAmend, bit, if_true]
  cases readLabel h l <;> rfl

/-- What an AMEND takes for its items: one value of each that the mask names, in bit order (R89). -/
theorem readAmend_eq_some_iff {h l m : Byte} {bs : List Byte} {r : AmendRequest} :
    readAmend (h :: l :: m :: bs) = some r ↔ r.label = 256 * h.toNat + l.toNat ∧ r.label ≠ 0 ∧ m.toNat < 128 ∧
      ∃ gain muted inverted rounding source s c rest : List Byte,
        bs = gain ++ muted ++ inverted ++ rounding ++ source ++ s ++ c ++ rest ∧
        itemHeld (m.getLsbD 0) gain r.setGain (fun b x => ∃ b1 b0 : Byte, b = [b1, b0] ∧ x = 256 * b1.toNat + b0.toNat) ∧
        itemHeld (m.getLsbD 1) muted r.muted (fun b x => b = [boolByte x]) ∧
        itemHeld (m.getLsbD 2) inverted r.inverted (fun b x => b = [boolByte x]) ∧
        itemHeld (m.getLsbD 3) rounding r.rounding (fun b x => b = [roundingByte x]) ∧
        itemHeld (m.getLsbD 4) source r.source (fun b x => ∃ k a g c : Byte, b = [k, a, g, c] ∧ readSource k a g c = some x) ∧
        (s.length = (m.getLsbD 5).toNat ∧ r.clearSlipped = m.getLsbD 5) ∧
        c.length = (m.getLsbD 6).toNat ∧ r.clearClipped = m.getLsbD 6 := by
  cases bit : m.getLsbD 7 with
  | true =>
    have wide := (getLsbD_seven m).1 bit
    rw [readAmend_of_mask wide]
    exact ⟨nofun, fun ⟨_, _, narrow, _⟩ => absurd wide (Nat.not_le.2 narrow)⟩
  | false =>
    have narrow : m.toNat < 128 := Nat.not_le.1 fun wide =>
      Bool.false_ne_true (bit.symm.trans ((getLsbD_seven m).2 wide))
    unfold readAmend
    simp only [Option.bind_eq_bind, Option.bind_eq_some_iff, readLabel_eq_some_iff, Prod.exists, bit,
      if_neg Bool.false_ne_true,
      readItem_gain, readItem_bool, readItem_rounding, readItem_source, readItem_clear]
    constructor
    · rintro ⟨label, ⟨number, named⟩, setGain, _, ⟨gain, rfl, hg⟩, muted, _, ⟨mu, rfl, hm⟩, inverted, _, ⟨iv, rfl, hi⟩,
        rounding, _, ⟨ro, rfl, hr⟩, source, _, ⟨so, rfl, hs⟩, slipped, _, ⟨rfl, hsl⟩, clipped, rest, ⟨rfl, hcl⟩, made⟩
      obtain rfl := Option.some.inj made
      refine ⟨number, named, narrow, gain, mu, iv, ro, so, slipped.toList, clipped.toList, rest, ?_, hg, hm, hi, hr, hs,
        ⟨length_eq_toNat_iff.2 ⟨slipped, rfl, hsl⟩, hsl⟩, length_eq_toNat_iff.2 ⟨clipped, rfl, hcl⟩, hcl⟩
      simp only [List.append_assoc]
    · rintro ⟨number, named, -, gain, mu, iv, ro, so, s, c, rest, rfl, hg, hm, hi, hr, hs, ⟨sl, hsl⟩, cl, hcl⟩
      obtain ⟨slipped, rfl, hsl'⟩ := length_eq_toNat_iff.1 sl
      obtain ⟨clipped, rfl, hcl'⟩ := length_eq_toNat_iff.1 cl
      refine ⟨r.label, ⟨number, named⟩, r.setGain, _, ⟨gain, ?_, hg⟩, r.muted, _, ⟨mu, rfl, hm⟩, r.inverted, _,
        ⟨iv, rfl, hi⟩, r.rounding, _, ⟨ro, rfl, hr⟩, r.source, _, ⟨so, rfl, hs⟩, slipped, _, ⟨rfl, hsl'⟩, clipped, rest,
        ⟨rfl, hcl'⟩, ?_⟩
      · simp only [List.append_assoc]
      · rw [hsl', hcl', ← hsl, ← hcl]
        rfl

/-! ### Every command's ranges -/

theorem readRounding_field : (fun (b : List Byte) (x : Option Rounding) => b = [roundingByte x]) =
    fun b x => ∃ b0 : Byte, b = [b0] ∧ [some .nearestEven, some .floor, some .towardZero, none][b0.toNat]? = some x := by
  funext b x
  simp only [← eq_roundingByte_iff, exists_eq_right]

/-- Settles O17: each command's fields are read as the values whose codes stand in its bytes. -/
theorem fieldRanges : Obligations.FieldRanges := by
  refine ⟨fun _ _ _ _ _ => readDest_eq_some_iff, fun _ _ _ _ _ => readSource_eq_some_iff,
    fun _ _ _ => readLabel_eq_some_iff,
    fun _ => ⟨readBool_isSome, readRounding_isSome, readDisposition_isSome, readWordLength_isSome, readFormat_isSome,
      readFilter_isSome⟩,
    fun _ _ _ _ _ _ => readGuard_eq_some_iff.trans and_assoc, fun _ _ _ _ => readLabel_eq_some_iff,
    fun _ _ _ _ => readAmend_of_mask, fun k l f rest src fmt => ?reference,
    fun l d1 w1 d2 w2 d3 w3 d4 w4 rest a x => ?lane, fun _ _ _ _ _ => rfl,
    fun _ _ _ _ _ _ _ _ _ => readAttach_eq_some_iff.trans and_assoc, fun h l m bs r => ?amend,
    fun h l k a g c g1 g0 mu iv ro n rest r => ?admitTrack, fun _ _ _ _ _ _ _ _ => readSurvey_isSome⟩
  case reference =>
    rw [readReference_eq_some_iff, readRefSource_eq_some_iff, eq_formatCode_iff]
  case lane =>
    rw [readLane_eq_some_iff]
    refine and_congr_right fun _ => Iff.trans ?_ (Iff.of_eq (congrArg _ (List.map_congr_left
      (f := fun g : Fin 4 => ((x.get g).disposition.code.toNat, (x.get g).word.code.toNat)) fun g _ => ?_)))
    · simp only [List.map_cons, List.map_nil, List.cons.injEq, Prod.mk.injEq, BitVec.toNat_inj]
    · generalize x.get g = setting
      obtain ⟨disposition, word⟩ := setting
      cases disposition <;> cases word <;> rfl
  case amend =>
    rw [← readRounding_field]
    exact readAmend_eq_some_iff
  case admitTrack =>
    rw [readAdmit_eq_some_iff, readDests_eq_some_iff, ← eq_roundingByte_iff]
    refine and_congr_right fun _ => and_congr_right fun _ => and_congr_right fun _ => and_congr_right fun _ =>
      and_congr_right fun _ => and_congr_right fun _ => ?_
    constructor
    · rintro ⟨eight, ⟨count, room, every⟩, distinct⟩
      exact ⟨count, eight, distinct, room, every⟩
    · rintro ⟨count, eight, distinct, room, every⟩
      exact ⟨eight, ⟨count, room, every⟩, distinct⟩

end Sys2Proof.Machine
end

section
/-! Commands laid out by chapter 12 and read back, whatever bytes follow (spec 12 section 12.2). -/

namespace Sys2Proof.Machine

/-! ### Bytes read back (R181) -/

theorem toNat_byteOf (n : Nat) : (byteOf n).toNat = n % 256 := BitVec.toNat_ofNat ..

theorem bytes16_value {n : Nat} (h : n ≤ 65535) : 256 * (byteOf (n / 256)).toNat + (byteOf n).toNat = n := by
  rw [toNat_byteOf, toNat_byteOf]
  omega

theorem nat16_bytes16 {n : Nat} (h : n ≤ 65535) : nat16 (byteOf (n / 256)) (byteOf n) = n := by
  rw [nat16_eq, bytes16_value h]

theorem toNat_numberByte {n : Nat} (small : n ≤ 255) (i : Fin n) : (numberByte i).toNat = i.1 + 1 := by
  have := i.2
  rw [numberByte, toNat_byteOf]
  omega

theorem Dest.bytes_read (d : Dest) : ∃ k l g c : Byte, d.bytes = [k, l, g, c] ∧ readDest k l g c = some d := by
  cases d with
  | lane l g c =>
    have := l.2
    refine ⟨_, _, _, _, rfl, readDest_eq_some_iff.2 (.inl ⟨l, g, c, rfl, rfl, ?_, toNat_numberByte (by decide) g,
      toNat_numberByte (by decide) c⟩)⟩
    rw [toNat_byteOf]
    omega
  | console n =>
    exact ⟨_, _, _, _, rfl, readDest_eq_some_iff.2 (.inr ⟨n, rfl, rfl, toNat_numberByte (by decide) n⟩)⟩

theorem Source.bytes_read (x : Source) : ∃ k l g c : Byte, x.bytes = [k, l, g, c] ∧ readSource k l g c = some x := by
  cases x with
  | none => exact ⟨_, _, _, _, rfl, rfl⟩
  | lane l g c =>
    have := l.2
    refine ⟨_, _, _, _, rfl, readSource_eq_some_iff.2 (.inr (.inl ⟨l, g, c, rfl, rfl, ?_, toNat_numberByte (by decide) g,
      toNat_numberByte (by decide) c⟩))⟩
    rw [toNat_byteOf]
    omega
  | console n =>
    exact ⟨_, _, _, _, rfl, readSource_eq_some_iff.2 (.inr (.inr ⟨n, rfl, rfl, toNat_numberByte (by decide) n⟩))⟩

/-! ### ADMIT (R59) -/

theorem readDests_bytes (ds : List Dest) (rest : List Byte) :
    readDests ds.length (ds.flatMap Dest.bytes ++ rest) = some ds := by
  induction ds with
  | nil => rfl
  | cons d ds ih =>
    obtain ⟨k, l, g, c, bytes, read⟩ := d.bytes_read
    simp only [List.flatMap_cons, bytes, List.cons_append, List.nil_append, List.length_cons, readDests, read, ih]
    rfl

theorem length_destBytes (ds : List Dest) : (ds.flatMap Dest.bytes).length = 4 * ds.length := by
  induction ds with
  | nil => rfl
  | cons d ds ih =>
    obtain ⟨k, l, g, c, bytes, -⟩ := d.bytes_read
    rw [List.flatMap_cons, List.length_append, bytes, ih, List.length_cons, List.length_cons]
    simp only [List.length_cons, List.length_nil]
    omega

theorem AdmitRequest.wellFormed_iff {r : AdmitRequest} : r.wellFormed = true ↔
    1 ≤ r.label ∧ r.label ≤ 65535 ∧ r.setGain ≤ 65535 ∧ r.dests.length ≤ 8 ∧ r.dests.Nodup := by
  have eight : decide (r.dests.length ≤ Config.listLimit) = true ↔ r.dests.length ≤ 8 := decide_eq_true_iff
  simp only [AdmitRequest.wellFormed, Bool.and_eq_true, eight, decide_eq_true_eq, and_assoc]

theorem AdmitRequest.encode_length (r : AdmitRequest) : r.encode.length = 12 + 4 * r.dests.length := by
  obtain ⟨k, l, g, c, bytes, -⟩ := r.source.bytes_read
  simp only [AdmitRequest.encode, bytes, bytes16, List.length_append, length_destBytes, List.length_cons, List.length_nil]

theorem readAdmit_encode {r : AdmitRequest} (wf : r.wellFormed = true) (rest : List Byte) :
    readAdmit (r.encode ++ rest) = some r := by
  obtain ⟨one, label, gain, eight, distinct⟩ := AdmitRequest.wellFormed_iff.1 wf
  obtain ⟨k, l, g, c, bytes, read⟩ := r.source.bytes_read
  have laid : r.encode ++ rest = byteOf (r.label / 256) :: byteOf r.label :: k :: l :: g :: c ::
      byteOf (r.setGain / 256) :: byteOf r.setGain :: boolByte r.muted :: boolByte r.inverted ::
      roundingByte r.rounding :: byteOf r.dests.length :: (r.dests.flatMap Dest.bytes ++ rest) := by
    rw [AdmitRequest.encode, bytes]
    simp only [bytes16, List.cons_append, List.nil_append]
  have count : (byteOf r.dests.length).toNat = r.dests.length := by
    rw [toNat_byteOf]
    omega
  rw [laid, readAdmit_eq_some_iff, count]
  exact ⟨⟨(bytes16_value label).symm, by omega⟩, read, (bytes16_value gain).symm, rfl, rfl, rfl, eight,
    readDests_bytes r.dests rest, distinct⟩

/-! ### AMEND (R89) -/

/-- The byte of seven flags holds each in its place, and bit 7 clear. -/
theorem byteOf_flags (b0 b1 b2 b3 b4 b5 b6 : Bool) :
    let m := byteOf (b0.toNat + 2 * b1.toNat + 4 * b2.toNat + 8 * b3.toNat + 16 * b4.toNat + 32 * b5.toNat +
      64 * b6.toNat)
    m.getLsbD 0 = b0 ∧ m.getLsbD 1 = b1 ∧ m.getLsbD 2 = b2 ∧ m.getLsbD 3 = b3 ∧ m.getLsbD 4 = b4 ∧ m.getLsbD 5 = b5 ∧
      m.getLsbD 6 = b6 ∧ m.toNat < 128 := by
  revert b0 b1 b2 b3 b4 b5 b6
  decide

/-- An item that is named takes its bytes, one that is not takes none. -/
theorem itemHeld_elim {α : Type} {value : Option α} {bytes : α → List Byte} {field : List Byte → α → Prop}
    (held : ∀ x, value = some x → field (bytes x) x) : itemHeld value.isSome (value.elim [] bytes) value field := by
  cases value with
  | none => exact ⟨rfl, rfl⟩
  | some x => exact ⟨x, held x rfl, rfl⟩

theorem length_elim_le {α : Type} {bytes : α → List Byte} {n : Nat} (h : ∀ x, (bytes x).length ≤ n) (value : Option α) :
    (value.elim [] bytes).length ≤ n := by
  cases value with
  | none => exact Nat.zero_le n
  | some x => exact h x

theorem length_clear (named : Bool) : (if named then [(0 : Byte)] else []).length = named.toNat := by
  cases named <;> rfl

theorem AmendRequest.wellFormed_iff {r : AmendRequest} : r.wellFormed = true ↔
    1 ≤ r.label ∧ r.label ≤ 65535 ∧ ∀ g, r.setGain = some g → g ≤ 65535 := by
  simp [AmendRequest.wellFormed, Option.all_eq_true, and_assoc]

theorem AmendRequest.encode_length (r : AmendRequest) : 3 ≤ r.encode.length ∧ r.encode.length ≤ 14 := by
  have gain := length_elim_le (bytes := bytes16) (fun _ => Nat.le_refl 2) r.setGain
  have muted := length_elim_le (bytes := fun b => [boolByte b]) (fun _ => Nat.le_refl 1) r.muted
  have inverted := length_elim_le (bytes := fun b => [boolByte b]) (fun _ => Nat.le_refl 1) r.inverted
  have rounding := length_elim_le (bytes := fun m => [roundingByte m]) (fun _ => Nat.le_refl 1) r.rounding
  have source := length_elim_le (bytes := Source.bytes) (n := 4) (fun x => by cases x <;> exact Nat.le_refl 4) r.source
  have slipped := r.clearSlipped.toNat_le
  have clipped := r.clearClipped.toNat_le
  simp only [AmendRequest.encode, List.length_append, length_clear]
  simp only [bytes16, List.length_cons, List.length_nil] at gain ⊢
  omega

theorem readAmend_encode {r : AmendRequest} (wf : r.wellFormed = true) (rest : List Byte) :
    readAmend (r.encode ++ rest) = some r := by
  obtain ⟨one, label, gain⟩ := AmendRequest.wellFormed_iff.1 wf
  obtain ⟨m0, m1, m2, m3, m4, m5, m6, narrow⟩ := byteOf_flags r.setGain.isSome r.muted.isSome r.inverted.isSome
    r.rounding.isSome r.source.isSome r.clearSlipped r.clearClipped
  rw [← AmendRequest.mask] at m0 m1 m2 m3 m4 m5 m6 narrow
  have laid : r.encode ++ rest = byteOf (r.label / 256) :: byteOf r.label :: r.mask :: (r.setGain.elim [] bytes16 ++
      r.muted.elim [] (fun b => [boolByte b]) ++ r.inverted.elim [] (fun b => [boolByte b]) ++
      r.rounding.elim [] (fun m => [roundingByte m]) ++ r.source.elim [] Source.bytes ++
      (if r.clearSlipped then [0] else []) ++ (if r.clearClipped then [0] else []) ++ rest) := by
    simp only [AmendRequest.encode, bytes16, List.append_assoc, List.cons_append, List.nil_append]
  rw [laid, readAmend_eq_some_iff, m0, m1, m2, m3, m4, m5, m6]
  refine ⟨(bytes16_value label).symm, by omega, narrow, _, _, _, _, _, _, _, rest, rfl, itemHeld_elim fun g held => ?_,
    itemHeld_elim fun _ _ => rfl, itemHeld_elim fun _ _ => rfl, itemHeld_elim fun _ _ => rfl,
    itemHeld_elim fun x _ => x.bytes_read, ⟨length_clear _, rfl⟩, length_clear _, rfl⟩
  exact ⟨_, _, rfl, (bytes16_value (gain g held)).symm⟩

/-! ### SETUP, LANE and REFERENCE (R30, R118, R147) -/

theorem readSetup_encode {r : SetupRequest} (ramp : r.rampLength ≤ 4096) (threshold : r.threshold ≤ 256)
    (rest : List Byte) : readSetup (r.encode ++ rest) = some r := by
  have laid : readSetup (r.encode ++ rest) = (readDefaultRounding (roundingByte (some r.rounding))).bind fun rounding =>
      (readSelectorA (selectorAByte r.selectorA)).bind fun a => (readSelectorB r.selectorB.code).bind fun b =>
      some ⟨min (nat16 (byteOf (r.rampLength / 256)) (byteOf r.rampLength)) 4096, rounding, a, b,
        min (nat16 (byteOf (r.threshold / 256)) (byteOf r.threshold)) 256⟩ := rfl
  rw [laid, readDefaultRounding_eq_some_iff.2 rfl, readSelectorA_eq_some_iff.2 rfl, readSelectorB_eq_some_iff.2 rfl,
    nat16_bytes16 (by omega), nat16_bytes16 (by omega), Nat.min_eq_left ramp, Nat.min_eq_left threshold]
  rfl

theorem readLane_encode (l : Fin 8) (setting : LaneSetting) (rest : List Byte) :
    readLane (encodeLane l setting ++ rest) = some (l, setting) := by
  have cells : setting.cells = [setting.get 0, setting.get 1, setting.get 2, setting.get 3] :=
    congrArg Bank.cells (LaneSetting.eq_iff.2 ⟨rfl, rfl, rfl, rfl⟩).symm
  have lane : (byteOf l.1).toNat = l.1 := by
    rw [toNat_byteOf]
    omega
  rw [encodeLane, cells]
  exact readLane_eq_some_iff.2 ⟨lane, rfl⟩

theorem readReference_encode (source : RefSource) (f : Format) (rest : List Byte) :
    readReference (encodeReference source f ++ rest) = some (source, f) := by
  cases source with
  | house => exact readReference_eq_some_iff.2 ⟨rfl, rfl⟩
  | lane l =>
    have lane : (byteOf l.1).toNat = l.1 := by
      rw [toNat_byteOf]
      omega
    exact readReference_eq_some_iff.2 ⟨readRefSource_eq_some_iff.2 (.inr (.inl ⟨l, rfl, lane, rfl⟩)), rfl⟩
  | free => exact readReference_eq_some_iff.2 ⟨rfl, rfl⟩

/-! ### ATTACH, DETACH, OWNER, GUARD, RETIRE and FIND (R71, R84, R93) -/

theorem readLabel_bytes16 {label : Nat} (one : 1 ≤ label) (last : label ≤ 65535) :
    readLabel (byteOf (label / 256)) (byteOf label) = some label :=
  readLabel_eq_some_iff.2 ⟨(bytes16_value last).symm, by omega⟩

theorem readAttach_encode {label : Nat} (one : 1 ≤ label) (last : label ≤ 65535) (d : Dest) (rest : List Byte) :
    readAttach (encodeAttach label d ++ rest) = some (label, d) ∧ readOwner (d.bytes ++ rest) = some d := by
  obtain ⟨k, l, g, c, bytes, read⟩ := d.bytes_read
  rw [encodeAttach, bytes]
  exact ⟨readAttach_eq_some_iff.2 ⟨⟨(bytes16_value last).symm, by omega⟩, read⟩, read⟩

/-! ### SURVEY (R154, R155) -/

/-- The code of a selector (12.2). -/
def Selector.code : Selector → Nat
  | .either => 0
  | .clear => 1
  | .set => 2

theorem Selector.code_le (x : Selector) : x.code ≤ 2 := by cases x <;> decide

/-- The two bits of a pattern byte from place `i` on hold the selector of that code. -/
theorem readSelector_byteOf {n i : Nat} {x : Selector} (place : i + 1 < 8) (held : n / 2 ^ i % 4 = x.code) :
    readSelector (byteOf n) i = x := by
  have bit (j : Nat) (h : j < 8) : (byteOf n).getLsbD j = decide (n / 2 ^ j % 2 = 1) := by
    rw [byteOf, BitVec.getLsbD_ofNat, Nat.testBit_eq_decide_div_mod_eq, decide_eq_true h, Bool.true_and]
  have high : n / 2 ^ (i + 1) = n / 2 ^ i / 2 := by rw [Nat.pow_succ, Nat.div_div_eq_div_mul]
  rw [readSelector, bit i (by omega), bit (i + 1) place, high]
  generalize n / 2 ^ i = q at held
  have low : q % 2 = x.code % 2 := by omega
  have second : q / 2 % 2 = x.code / 2 := by omega
  rw [low, second]
  cases x <;> rfl

/-- The byte of four selectors, the first in the highest bits. -/
theorem readSelector_patternByte (a b c d : Selector) :
    let p := byteOf (64 * a.code + 16 * b.code + 4 * c.code + d.code)
    readSelector p 6 = a ∧ readSelector p 4 = b ∧ readSelector p 2 = c ∧ readSelector p 0 = d := by
  have ha := a.code_le
  have hb := b.code_le
  have hc := c.code_le
  have hd := d.code_le
  exact ⟨readSelector_byteOf (by decide) (by omega), readSelector_byteOf (by decide) (by omega),
    readSelector_byteOf (by decide) (by omega), readSelector_byteOf (by decide) (by omega)⟩

theorem readFilter_encode (filter : Option (Fin 8)) :
    readFilter (match filter with | some l => byteOf l | none => 0xFF) = some filter := by
  rw [readFilter_eq_some_iff]
  cases filter with
  | none => rfl
  | some l =>
    have := l.2
    rw [toNat_byteOf]
    exact Nat.mod_eq_of_lt (by omega)

theorem readSurvey_encode {cursor maximum : Nat} (a b c d e f g h i : Selector) (filter : Option (Fin 8))
    (rest : List Byte) (within : cursor ≤ 256) (one : 1 ≤ maximum) (most : maximum ≤ 16) :
    readSurvey (bytes16 cursor ++ [byteOf maximum, byteOf (64 * a.code + 16 * b.code + 4 * c.code + d.code),
      byteOf (64 * e.code + 16 * f.code + 4 * g.code + h.code), byteOf (64 * i.code),
      match filter with | some l => byteOf l | none => 0xFF] ++ rest) =
      some ⟨cursor, maximum, [a, b, c, d, e, f, g, h, i], filter⟩ := by
  obtain ⟨ha, hb, hc, hd⟩ := readSelector_patternByte a b c d
  obtain ⟨he, hf, hg, hh⟩ := readSelector_patternByte e f g h
  have hi : readSelector (byteOf (64 * i.code)) 6 = i := (readSelector_patternByte i .either .either .either).1
  have count : max 1 (min (byteOf maximum).toNat 16) = maximum := by
    rw [toNat_byteOf]
    omega
  have pattern : readPattern (byteOf (64 * a.code + 16 * b.code + 4 * c.code + d.code))
      (byteOf (64 * e.code + 16 * f.code + 4 * g.code + h.code)) (byteOf (64 * i.code)) =
      [a, b, c, d, e, f, g, h, i] := by
    rw [readPattern, ha, hb, hc, hd, he, hf, hg, hh, hi]
  simp only [bytes16, List.cons_append, List.nil_append, readSurvey]
  rw [readFilter_encode, pattern, count, nat16_bytes16 (by omega), Nat.min_eq_left within]
  rfl

/-- Settles O18: the reader of each command finds the fields where the encoder has laid them. -/
theorem encodingsReadBack : Obligations.EncodingsReadBack := by
  refine ⟨fun r rest wf => ⟨readAdmit_encode wf rest, r.encode_length⟩,
    fun r rest wf => ⟨readAmend_encode wf rest, r.encode_length⟩, fun r rest ramp threshold =>
      readSetup_encode ramp threshold rest, fun label d rest one last => readAttach_encode one last d rest,
    readLane_encode, fun label on rest one last => ⟨?guard, readLabel_bytes16 one last⟩,
    fun cursor maximum a b c d e f g h i filter rest within one most => ?survey, readReference_encode⟩
  case guard => exact readGuard_eq_some_iff.2 ⟨⟨(bytes16_value last).symm, by omega⟩, rfl⟩
  case survey =>
    exact readSurvey_encode a b c d e f g h i filter rest within one most

end Sys2Proof.Machine
end

section
/-! Packets and console frames as the part builds them, read back as a receiver reads them (spec 03 R38 to R41, 08 R145,
12.3, 12.4). -/

namespace Sys2Proof.Machine

/-! ### The samples of a built packet (R41, R145) -/

/-- A shaped sample as it stands on the line: 24 bits, or 20 bits above four zeros (R145). -/
def builtRaw (w : WordLength) (v : Int) : Sample :=
  match w with
  | .w24 => BitVec.ofInt 24 v
  | .w20 => BitVec.ofInt 20 v ++ (0 : BitVec 4)

theorem builtSample_eq (w : WordLength) (v : Int) : builtSample w v = sampleBytes (builtRaw w v) := by cases w <;> rfl

/-- The samples laid out one behind the other stand each in its place, at either word length. -/
theorem sampleFrom_built (w : WordLength) (values : List Int) (i : Nat) :
    sampleFrom (values.flatMap (builtSample w)) (3 * i) = builtRaw w (values.getD i 0) := by
  induction values generalizing i with
  | nil => cases w <;> simp [sampleFrom, sampleOf, builtRaw]
  | cons v values ih =>
    rw [List.flatMap_cons, builtSample_eq]
    cases i with
    | zero => exact sampleOf_sampleBytes (builtRaw w v)
    | succ i =>
      rw [show 3 * (i + 1) = 3 + 3 * i by omega]
      exact (sampleFrom_cons3 _ _ _ _ _).trans (ih i)

/-- A received sample is the shaped one, 16 times it at 20 bits (R41). -/
theorem toInt_arrivedSample {w : WordLength} {v : Int} (h : w.lowest ≤ v ∧ v ≤ w.highest) :
    (arrivedSample (decide (w = .w20)) (builtRaw w v)).toInt = (if w = .w20 then 16 else 1) * v := by
  cases w with
  | w24 => simpa [arrivedSample, builtRaw] using toInt_ofInt_of_mem h
  | w20 =>
    obtain ⟨low, high⟩ := h
    simp only [WordLength.lowest, WordLength.highest, WordLength.bits] at low high
    have value : (BitVec.ofInt 20 v).toInt = v := BitVec.toInt_ofInt_eq_self (by decide) (by omega) (by omega)
    have upper : arrivedSample true (builtRaw .w20 v) = BitVec.ofInt 20 v ++ (0 : BitVec 4) :=
      congrArg (· ++ (0 : BitVec 4)) BitVec.extractLsb'_append_eq_left
    have whole : (BitVec.ofInt 20 v ++ (0 : BitVec 4)).toInt = 16 * v := by
      rw [BitVec.toInt_append, value]
      simp
    exact (congrArg BitVec.toInt upper).trans whole

/-! ### The header and the check byte (R182) -/

theorem countOf_countField (w : WordLength) {k : Nat} (h : k ≤ 4) : countOf (countField w k) = k := by
  cases w <;> simp only [countOf, countField, toNat_byteOf] <;> omega

theorem flag_countField (w : WordLength) {k : Nat} (h : k ≤ 4) : (countField w k).getLsbD 7 = decide (w = .w20) := by
  interval_cases k <;> cases w <;> rfl

theorem sumBytes_append (a b : List Byte) : sumBytes (a ++ b) = sumBytes a + sumBytes b := by
  simp [sumBytes]

/-- The check byte completes the sum (R182). -/
theorem sumBytes_checked (bs : List Byte) : sumBytes (bs ++ [checkByte bs]) % 256 = 0 := by
  rw [sumBytes_append]
  simp only [sumBytes, List.map_cons, List.map_nil, List.sum_cons, List.sum_nil, checkByte, toNat_byteOf]
  omega

/-- The packet that an EMBED group builds, field by field. -/
def builtPacket (g : Fin 4) (phase k : Nat) (w : WordLength) (values : List Int) : Packet where
  group := numberByte g
  phase := byteOf phase
  count := countField w k
  samples := values.flatMap (builtSample w)
  check := checkByte (markerBytes ++ [numberByte g, byteOf phase, countField w k] ++ values.flatMap (builtSample w))

theorem builtPacket_bytes (g : Fin 4) (phase k : Nat) (w : WordLength) (values : List Int) :
    (builtPacket g phase k w values).bytes = buildPacket g phase k w values := rfl

/-- The marker search takes a packet whose count field stands for its samples, whatever follows (R38, R39). -/
theorem search_bytes {p : Packet} {k : Nat} (count : countOf p.count = k) (one : 1 ≤ k) (most : k ≤ 4)
    (samples : p.samples.length = 12 * k) (rest : List Byte) : search (p.bytes ++ rest) = .taken p := by
  have laid : p.bytes ++ rest = 0x5A :: 0xC3 :: p.group :: p.phase :: p.count :: (p.samples ++ p.check :: rest) := by
    simp [Packet.bytes, markerBytes]
  have counted : (countOf p.count = 0 || 4 < countOf p.count) = false := by
    simp [count]
    omega
  have found : search (0x5A :: 0xC3 :: p.group :: p.phase :: p.count :: (p.samples ++ p.check :: rest)) =
      readPacket (p.group :: p.phase :: p.count :: (p.samples ++ p.check :: rest)) := rfl
  rw [laid, found, readPacket, counted, count, ← samples, List.drop_left, List.take_left]
  rfl

/-! ### A built packet received (R39, R41) -/

section
variable {g : Fin 4} {phase k : Nat} {w : WordLength} {values : List Int}

theorem builtPacket_valid_iff (small : phase < 5) (Q : Nat) :
    (builtPacket g phase k w values).valid Q = true ↔ phase < Q := by
  have sum : sumBytes (builtPacket g phase k w values).bytes % 256 = 0 := sumBytes_checked _
  have group : (builtPacket g phase k w values).group.toNat = g.1 + 1 := toNat_numberByte (by decide) g
  have phase' : (builtPacket g phase k w values).phase.toNat = phase := (toNat_byteOf phase).trans (by omega)
  rw [Packet.valid_iff, group, phase']
  omega

theorem builtPacket_flag20 (most : k ≤ 4) : (builtPacket g phase k w values).flag20 = decide (w = .w20) :=
  flag_countField w most

/-- Sample set `i` holds the four channels' samples in their order (R41, R144). -/
theorem builtPacket_sets (most : k ≤ 4) (length : values.length = 4 * k)
    (range : ∀ v ∈ values, w.lowest ≤ v ∧ v ≤ w.highest) {i : Nat} (h : i < (builtPacket g phase k w values).sets.length)
    (c : Fin 4) : (((builtPacket g phase k w values).sets[i]).get c).toInt =
      (if w = .w20 then 16 else 1) * values.getD (4 * i + c.1) 0 := by
  have inside : 4 * i + c.1 < values.length := by
    rw [Packet.length_sets] at h
    have := countOf_countField w most
    simp only [countOf] at this
    simp only [builtPacket] at h
    omega
  have drawn : values.getD (4 * i + c.1) 0 ∈ values := by
    rw [List.getD_eq_getElem _ _ inside]
    exact List.getElem_mem inside
  have raw := sampleFrom_built w values (4 * i + c.1)
  rw [show 3 * (4 * i + c.1) = 12 * i + 3 * c.1 by omega] at raw
  simp only [Packet.sets, List.getElem_map, List.getElem_range, Bank.get_ofFn, builtPacket_flag20 most]
  rw [← toInt_arrivedSample (range _ drawn), ← raw]
  rfl
end

theorem length_buildPacket (g : Fin 4) (phase : Nat) {k : Nat} (w : WordLength) {values : List Int}
    (length : values.length = 4 * k) : (buildPacket g phase k w values).length = 6 + 12 * k := by
  simp only [buildPacket, markerBytes, List.length_append, length_builtSamples, length, List.length_cons, List.length_nil]
  omega

/-- A console frame of 64 samples is that of a value per channel. -/
theorem consoleFrame_eq_channelFrame {values : List Int} (length : values.length = 64) :
    consoleFrame values = channelFrame fun n => values.getD n.1 0 := by
  have same : values = (List.finRange 64).map fun n => values.getD n.1 0 :=
    List.ext_getElem (by simp [length]) fun i h _ => by simp [h]
  rw [channelFrame, ← same]

/-- Settles O54: the search reads the packet back field by field, its samples by their places. -/
theorem builtPacketsReadBack : Obligations.BuiltPacketsReadBack := by
  refine ⟨fun g phase k w values rest small one most length range => ?_, fun values length range => ?_⟩
  · have count : countOf (builtPacket g phase k w values).count = k := countOf_countField w most
    have samples : (builtPacket g phase k w values).samples.length = 12 * k := by
      rw [builtPacket, length_builtSamples, length]
      omega
    exact ⟨length_buildPacket g phase w length, builtPacket g phase k w values, search_bytes count one most samples rest,
      builtPacket_bytes .., builtPacket_valid_iff small, readNumber_eq_some_iff.2 (toNat_numberByte (by decide) g).symm,
      (toNat_byteOf phase).trans (by omega), count, builtPacket_flag20 most, (Packet.length_sets _).trans count,
      fun i h c => builtPacket_sets most length range h c⟩
  · rw [consoleFrame_eq_channelFrame length]
    refine ⟨channelFrame_framed _, channelFrame_length _, fun n => ?_⟩
    have sent : values.getD n.1 0 ∈ values := by
      rw [List.getD_eq_getElem _ _ (by omega)]
      exact List.getElem_mem _
    rw [consoleSamples_channelFrame, toInt_ofInt_of_mem (range _ sent)]

end Sys2Proof.Machine
end

section
/-! Console frames taken (spec 03 section 3.7): losses and returns of sources leave the counts, and the link moves by the
framing of each frame. -/

namespace Sys2Proof.Machine

/-! ### A loss of sources in the table (R65, R66, R108, R109) -/

@[simp] theorem Entry.lose_isJoining (e : Entry) : e.lose.phase.isJoining = e.phase.isJoining := by
  obtain ⟨dest, phase, taken, lag, last⟩ := e
  rcases phase with _ | _ | _ | m
  case leaving => cases m <;> rfl
  all_goals rfl

@[simp] theorem Entry.lose_isLeaving (e : Entry) : e.lose.phase.isLeaving = e.phase.isLeaving := by
  obtain ⟨dest, phase, taken, lag, last⟩ := e
  rcases phase with _ | _ | _ | m
  case leaving => cases m <;> rfl
  all_goals rfl

@[simp] theorem Track.lose_pendingSource (t : Track) (gone : Source → Bool) :
    (t.lose gone).pendingSource = t.pendingSource := by
  unfold Track.lose
  dsimp only
  split <;> rfl

theorem Track.lose_entries (t : Track) (gone : Source → Bool) :
    (t.lose gone).entries = t.entries.map fun e => if gone (t.effective e) then e.lose else e := by
  unfold Track.lose
  dsimp only
  split <;> rfl

/-- No entry joins or leaves by a loss, and no pending source goes. -/
theorem Track.stagedItems_lose (t : Track) (gone : Source → Bool) : (t.lose gone).stagedItems = t.stagedItems := by
  have entry (e : Entry) : ((if gone (t.effective e) then e.lose else e).phase.isJoining ||
      (if gone (t.effective e) then e.lose else e).phase.isLeaving) = (e.phase.isJoining || e.phase.isLeaving) := by
    split <;> simp
  simp only [Track.stagedItems, Track.lose_pendingSource, Track.lose_entries, List.countP_map, Function.comp_def, entry]

/-- An unchanged occupancy crosses no threshold (R162). -/
theorem Attention.reportOccupancy_same (a : Attention) (n : Nat) : a.reportOccupancy n n = a := by
  have still : a.crosses n n = false := by
    unfold Attention.crosses
    split <;> simp
  simp [Attention.reportOccupancy, still]

/-- An event that keeps the counts reports only the tracks newly lost. -/
theorem State.settle_keepsCounts {s t : State} (h : s.KeepsCounts t) :
    State.settle s t = t.reportIf (s.table.anyNewlyLost t.table) .sourceLost := by
  obtain ⟨occupancy, staged, records, items⟩ := h
  have table : { t.table with
      occupancy := s.table.occupancy + t.table.records - s.table.records
      staged := s.table.staged + t.stagedItems - s.stagedItems } = t.table := by
    rw [records, items, Nat.add_sub_cancel, Nat.add_sub_cancel, ← occupancy, ← staged]
  have none : (decide (0 < s.table.staged) && decide (s.table.staged = 0)) = false := by
    simp
    omega
  rw [State.settle, table]
  simp only [State.reportTable, occupancy, staged, none, State.reportIf_false, Attention.reportOccupancy_same]

/-- A loss changes the records and reports those newly lost; the counts stand. -/
theorem State.sourcesLost_eq (s : State) (gone : Source → Bool) : s.sourcesLost gone =
    (s.mapTracks fun t => t.lose gone).reportIf
      (s.table.anyNewlyLost (s.mapTracks fun t => t.lose gone).table) .sourceLost :=
  State.settle_keepsCounts (s.keepsCounts_mapTracks fun t => t.stagedItems_lose gone)

/-! ### Arrivals of the console link (R101, R106) -/

/-- An arrival slips where an entry of its sources that keeps lag stands at 16. -/
theorem Track.slipsOnArrival_iff_of_none {into : Source → Bool} (none : into .none = false) (t : Track) :
    t.slipsOnArrival into = true ↔
      ∃ e ∈ t.entries, into (t.effective e) = true ∧ e.phase.manner = some .active ∧ 16 ≤ e.lag := by
  simp only [Track.slipsOnArrival, List.any_eq_true, Bool.and_eq_true, Track.keepsLag, decide_eq_true_eq,
    Config.windowSize, bne_iff_ne, and_assoc]
  refine exists_congr fun e => and_congr_right fun _ => and_congr_right fun source => and_congr_right fun _ => ?_
  have sounds : t.effective e ≠ .none := fun silent => by simp [silent, none] at source
  exact (and_iff_right sounds).trans decide_eq_true_iff

theorem ofConsole_iff (source : Source) : ofConsole source = true ↔ ∃ n, source = .console n := by
  cases source <;> simp [ofConsole]

theorem State.anySlip_console_iff (s : State) : (s.anyTrack fun t => t.slipsOnArrival ofConsole) = true ↔
    ∃ i v, s.table.holds i v ∧ ∃ e ∈ v.entries, (∃ n, v.effective e = .console n) ∧
      e.phase.manner = some .active ∧ 16 ≤ e.lag := by
  simp only [State.anyTrack_iff, Track.slipsOnArrival_iff_of_none (into := ofConsole) rfl, ofConsole_iff]

/-! ### The console link at a frame (R49, R50) -/

theorem framed_iff (bytes : List Byte) :
    framed bytes = true ↔ bytes.length = 195 ∧ bytes.take 3 = [0xE1, 0x4B, 0x72] := by
  exact (Bool.and_eq_true_iff ..).trans (and_congr decide_eq_true_iff decide_eq_true_iff)

/-- The windows after a framed frame: each channel's sample in its own. -/
theorem ConsoleRx.write_windows (c : ConsoleRx) (bytes : List Byte) :
    (c.write (consoleSamples bytes)).windows = Bank.ofFn fun n => (c.windows.get n).push
      (sampleOf (bytes.getD (3 + 3 * n.1) 0) (bytes.getD (3 + 3 * n.1 + 1) 0) (bytes.getD (3 + 3 * n.1 + 2) 0)) := by
  simp only [ConsoleRx.write, consoleSamples, Bank.get_ofFn, sampleFrom]

/-- Another state of the console link in place of the part's. -/
def State.withConsole (s : State) (c : ConsoleRx) : State := { s with console := c }

section
variable {s : State} {bytes : List Byte}

theorem State.takeConsoleFrame_arrives (up : s.console.up = true) (whole : framed bytes = true) :
    s.takeConsoleFrame bytes = (s.withConsole ⟨true, 0, min (s.console.depth + 1) 16,
      (s.console.write (consoleSamples bytes)).windows⟩).arrival ofConsole (min (s.console.depth + 1) 16) := by
  simp only [State.takeConsoleFrame, whole, ConsoleRx.write, up]
  rfl

theorem State.takeConsoleFrame_goesUp (down : s.console.up = false) (whole : framed bytes = true)
    (count : s.console.count = 1) : s.takeConsoleFrame bytes =
      (s.withConsole ⟨true, 0, 0, (s.console.write (consoleSamples bytes)).windows⟩).sourcesBack ofConsole := by
  have second : (s.console.write (consoleSamples bytes)).count + 1 = 2 := congrArg (· + 1) count
  simp only [State.takeConsoleFrame, down, whole, second, if_true]
  rfl

theorem State.takeConsoleFrame_counts (down : s.console.up = false) (whole : framed bytes = true)
    (count : s.console.count ≠ 1) : s.takeConsoleFrame bytes =
      s.withConsole ⟨false, s.console.count + 1, s.console.depth, (s.console.write (consoleSamples bytes)).windows⟩ := by
  have first : ¬s.console.count + 1 = 2 := fun h => count (Nat.succ.inj h)
  simp only [State.takeConsoleFrame, down, whole, ConsoleRx.write, first, if_false]
  rfl

theorem State.takeConsoleFrame_clears (down : s.console.up = false) (torn : framed bytes = false) :
    s.takeConsoleFrame bytes = s.withConsole { s.console with count := 0 } := by
  simp only [State.takeConsoleFrame, down, torn]
  rfl

theorem State.takeConsoleFrame_goesDown (up : s.console.up = true) (torn : framed bytes = false)
    (count : s.console.count = 1) : s.takeConsoleFrame bytes =
      (s.withConsole { s.console with up := false, count := 0, depth := 0 }).sourcesLost ofConsole := by
  have second : s.console.count + 1 = 2 := congrArg (· + 1) count
  simp only [State.takeConsoleFrame, up, torn, second, if_true]
  rfl

theorem State.takeConsoleFrame_misses (up : s.console.up = true) (torn : framed bytes = false)
    (count : s.console.count ≠ 1) :
    s.takeConsoleFrame bytes = s.withConsole { s.console with count := s.console.count + 1 } := by
  have first : ¬s.console.count + 1 = 2 := fun h => count (Nat.succ.inj h)
  simp only [State.takeConsoleFrame, up, torn, first, if_false]
  rfl
end

/-- A console frame changes the link, records and requests, and of the table nothing but the slots. -/
theorem State.takeConsoleFrame_slotsOnly (s : State) (bytes : List Byte) :
    let t := s.takeConsoleFrame bytes
    t = { s with console := t.console, table := { s.table with slots := t.table.slots }, attn := t.attn } := by
  unfold State.takeConsoleFrame
  dsimp only
  split
  · rfl
  · split
    · rw [State.sourcesLost_eq]
      rfl
    · rfl
  · split <;> rfl
  · rfl

theorem exec_consoleFrameTaken (bytes : List Byte) (s : State) :
    exec (.consoleFrameTaken bytes) s = execConsoleFrameTaken bytes s := rfl

theorem exec_consoleFrameTaken_released {s : State} (released : s.resetHeld = false) (bytes : List Byte) :
    exec (.consoleFrameTaken bytes) s = .next (s.takeConsoleFrame bytes) := by
  rw [exec_consoleFrameTaken, execConsoleFrameTaken, State.running_released released]

/-- Settles O49: six cases, by the frame, by the link's state and by its count. -/
theorem consoleFramesMoveTheLink : Obligations.ConsoleFramesMoveTheLink := by
  intro s bytes released
  dsimp only
  rw [← framed_iff, ← s.console.write_windows bytes, Bool.not_eq_true]
  refine ⟨_, exec_consoleFrameTaken_released released bytes, s.takeConsoleFrame_slotsOnly bytes, fun whole up => ?arrives,
    fun whole down count => ?goesUp, fun whole down count => ?counts, fun torn down => ?clears,
    fun torn up count => ?goesDown, fun torn up count => ?misses⟩
  case arrives =>
    rw [State.takeConsoleFrame_arrives up whole]
    exact ⟨rfl, fun i => Bank.get_map .., _, State.anySlip_console_iff _, rfl⟩
  case goesUp =>
    rw [State.takeConsoleFrame_goesUp down whole count]
    exact ⟨rfl, rfl, fun i => Bank.get_map ..⟩
  case counts => exact State.takeConsoleFrame_counts down whole count
  case clears => exact State.takeConsoleFrame_clears down torn
  case goesDown =>
    rw [State.takeConsoleFrame_goesDown up torn count, State.sourcesLost_eq]
    exact ⟨rfl, fun i => Bank.get_map .., _, Table.anyNewlyLost_iff .., rfl⟩
  case misses => exact State.takeConsoleFrame_misses up torn count

end Sys2Proof.Machine
end

section
/-! Switch lines and losses of a lane as its receiver takes them (spec 03 section 3.1, R42, R43, R47): the states and the
groups, the losses and returns of sources, and what the reference unit leaves alone when the lane is its source. -/

namespace Sys2Proof.Machine

/-! ### Losses and returns of one lane's groups (R47, R108, R110) -/

@[simp] theorem Track.lose_source (t : Track) (gone : Source → Bool) : (t.lose gone).source = t.source := by
  unfold Track.lose
  dsimp only
  split <;> rfl

theorem Track.lose_sourceLost (t : Track) (gone : Source → Bool) :
    (t.lose gone).sourceLost = (gone t.source || t.sourceLost) := by
  unfold Track.lose
  dsimp only
  split
  · next h => simp [Track.cut, h]
  · next h => simp [h]

/-- Retargeting moves gain now and the ramp only (R119). -/
theorem Track.retarget_eq (t : Track) (before R : Nat) : t.retarget before R =
    { t with gainNow := (t.retarget before R).gainNow, ramp := (t.retarget before R).ramp } := by
  unfold Track.retarget
  split
  · rfl
  · split
    · rfl
    · split <;> rfl

section
variable (t : Track) (view : SourceView) (R : Nat) (back : Source → Bool)

@[simp] theorem Track.comeBack_source : (t.comeBack view R back).source = t.source := by
  unfold Track.comeBack Track.regain
  dsimp only
  split
  · rw [Bool.false_and, if_neg Bool.false_ne_true, Track.retarget_eq]
  · rfl

theorem Track.comeBack_sourceLost : (t.comeBack view R back).sourceLost = (!back t.source && t.sourceLost) := by
  unfold Track.comeBack Track.regain
  dsimp only
  split
  · next h => rw [Bool.false_and, if_neg Bool.false_ne_true, Track.retarget_eq, h]; rfl
  · next h => simp [h]
end

theorem ofGroup_injective {l : Fin 8} {g h : Fin 4} {source : Source} (hg : ofGroup l g source = true)
    (hh : ofGroup l h source = true) : g = h := by
  cases source <;> simp_all [ofGroup]

/-- A record at the change of one group's presence as a source, the receiver going from `before` to `after`. -/
def Track.moveGroup (before after : LaneRx) (l : Fin 8) (view : SourceView) (R : Nat) (t : Track) (g : Fin 4) : Track :=
  if before.groupPresent g && !after.groupPresent g then t.lose (ofGroup l g)
  else if !before.groupPresent g && after.groupPresent g then t.comeBack view R (ofGroup l g)
  else t

/-- A record after the changes of several groups. -/
def Track.moveGroups (before after : LaneRx) (l : Fin 8) (view : SourceView) (R : Nat) (gs : List (Fin 4)) (t : Track) :
    Track := gs.foldl (Track.moveGroup before after l view R) t

/-- Whether the record's source is one of a group that ceases to be a present source. -/
def Track.Fades (before after : LaneRx) (l : Fin 8) (t : Track) : Prop :=
  ∃ g, ofGroup l g t.source = true ∧ before.groupPresent g = true ∧ after.groupPresent g = false

/-- Whether `f` takes a record's source from not lost to lost (R160). -/
def Track.losesBy (f : Track → Track) (t : Track) : Bool := (f t).sourceLost && !t.sourceLost

section
variable {before after : LaneRx} {l : Fin 8} {view : SourceView} {R : Nat} {t : Track}

theorem Track.moveGroup_lost {g : Fin 4} (was : before.groupPresent g = true) (is : after.groupPresent g = false) :
    t.moveGroup before after l view R g = t.lose (ofGroup l g) := by simp [Track.moveGroup, was, is]

theorem Track.moveGroup_back {g : Fin 4} (was : before.groupPresent g = false) (is : after.groupPresent g = true) :
    t.moveGroup before after l view R g = t.comeBack view R (ofGroup l g) := by simp [Track.moveGroup, was, is]

theorem Track.moveGroup_same {g : Fin 4} (same : before.groupPresent g = after.groupPresent g) :
    t.moveGroup before after l view R g = t := by simp [Track.moveGroup, same]

/-- A group's presence goes, comes or stays. -/
theorem LaneRx.groupPresent_cases (before after : LaneRx) (g : Fin 4) :
    (before.groupPresent g = true ∧ after.groupPresent g = false) ∨
    (before.groupPresent g = false ∧ after.groupPresent g = true) ∨ before.groupPresent g = after.groupPresent g := by
  cases before.groupPresent g <;> cases after.groupPresent g <;> simp

theorem Track.moveGroup_source (g : Fin 4) : (t.moveGroup before after l view R g).source = t.source := by
  rcases before.groupPresent_cases after g with ⟨was, is⟩ | ⟨was, is⟩ | same
  · rw [Track.moveGroup_lost was is, Track.lose_source]
  · rw [Track.moveGroup_back was is, Track.comeBack_source]
  · rw [Track.moveGroup_same same]

/-- A record whose source fades is not found again by the change of another group. -/
theorem Track.Fades.moveGroup (fades : t.Fades before after l) (lost : t.sourceLost = true) (g : Fin 4) :
    (t.moveGroup before after l view R g).sourceLost = true := by
  rcases before.groupPresent_cases after g with ⟨was, is⟩ | ⟨was, is⟩ | same
  · rw [Track.moveGroup_lost was is, Track.lose_sourceLost, lost, Bool.or_true]
  · obtain ⟨h, source, present, _⟩ := fades
    have elsewhere : ofGroup l g t.source = false := by
      by_contra here
      rw [ofGroup_injective source (Bool.not_eq_false _ ▸ here), was] at present
      exact Bool.false_ne_true present
    rw [Track.moveGroup_back was is, Track.comeBack_sourceLost, elsewhere, lost]
    rfl
  · rw [Track.moveGroup_same same, lost]

/-- Only a record whose source fades is newly lost. -/
theorem Track.sourceLost_of_moveGroup (stays : ¬t.Fades before after l) {g : Fin 4}
    (lost : (t.moveGroup before after l view R g).sourceLost = true) : t.sourceLost = true := by
  rcases before.groupPresent_cases after g with ⟨was, is⟩ | ⟨was, is⟩ | same
  · rw [Track.moveGroup_lost was is, Track.lose_sourceLost, Bool.or_eq_true] at lost
    exact lost.resolve_left fun source => stays ⟨g, source, was, is⟩
  · rw [Track.moveGroup_back was is, Track.comeBack_sourceLost, Bool.and_eq_true] at lost
    exact lost.2
  · rwa [Track.moveGroup_same same] at lost

theorem Track.moveGroups_append (gs : List (Fin 4)) (g : Fin 4) (t : Track) :
    t.moveGroups before after l view R (gs ++ [g]) =
      (t.moveGroups before after l view R gs).moveGroup before after l view R g := by simp [Track.moveGroups]

theorem Track.fades_moveGroups (gs : List (Fin 4)) :
    (t.moveGroups before after l view R gs).Fades before after l ↔ t.Fades before after l := by
  have source : (t.moveGroups before after l view R gs).source = t.source := by
    induction gs using List.reverseRecOn with
    | nil => rfl
    | append_singleton gs g ih => rw [Track.moveGroups_append, Track.moveGroup_source, ih]
  rw [Track.Fades, Track.Fades, source]

theorem Track.Fades.moveGroups (fades : t.Fades before after l) (lost : t.sourceLost = true) (gs : List (Fin 4)) :
    (t.moveGroups before after l view R gs).sourceLost = true := by
  induction gs using List.reverseRecOn with
  | nil => exact lost
  | append_singleton gs g ih =>
    rw [Track.moveGroups_append]
    exact ((Track.fades_moveGroups gs).2 fades).moveGroup ih g

theorem Track.sourceLost_of_moveGroups (stays : ¬t.Fades before after l) {gs : List (Fin 4)}
    (lost : (t.moveGroups before after l view R gs).sourceLost = true) : t.sourceLost = true := by
  induction gs using List.reverseRecOn with
  | nil => exact lost
  | append_singleton gs g ih =>
    rw [Track.moveGroups_append] at lost
    exact ih (Track.sourceLost_of_moveGroup ((Track.fades_moveGroups gs).not.2 stays) lost)

/-- A record is newly lost by several changes exactly when one of them newly loses it: none undoes another. -/
theorem Track.losesBy_moveGroups_next (gs : List (Fin 4)) (g : Fin 4) (t : Track) :
    t.losesBy (fun u => (u.moveGroups before after l view R gs).moveGroup before after l view R g) =
      (t.losesBy (Track.moveGroups before after l view R gs) ||
        (t.moveGroups before after l view R gs).losesBy fun u => u.moveGroup before after l view R g) := by
  simp only [Track.losesBy]
  generalize between : t.moveGroups before after l view R gs = u
  rw [Bool.eq_iff_iff]
  simp only [Bool.or_eq_true, Bool.and_eq_true, Bool.not_eq_true']
  by_cases fades : t.Fades before after l
  · have first : t.sourceLost = true → u.sourceLost = true := fun lost => between ▸ fades.moveGroups lost gs
    have second : u.sourceLost = true → (u.moveGroup before after l view R g).sourceLost = true := fun lost =>
      Track.Fades.moveGroup (between ▸ (Track.fades_moveGroups gs).2 fades) lost g
    grind
  · have first : u.sourceLost = true → t.sourceLost = true := fun lost =>
      Track.sourceLost_of_moveGroups fades (between ▸ lost)
    have second : (u.moveGroup before after l view R g).sourceLost = true → u.sourceLost = true :=
      Track.sourceLost_of_moveGroup (between ▸ (Track.fades_moveGroups gs).not.2 fades)
    grind
end

/-! ### The receiver's change in the table (R37, R47) -/

theorem Table.anyNewlyLost_mapTracks (s : State) (f : Track → Track) :
    s.table.anyNewlyLost (s.mapTracks f).table = s.anyTrack (Track.losesBy f) := by
  rw [Bool.eq_iff_iff, Table.anyNewlyLost_iff, State.anyTrack_iff]
  refine exists_congr fun i => exists_congr fun v => ?_
  simp only [Table.holds, State.mapTracks_table, Bank.get_map, Track.losesBy, Bool.and_eq_true, Bool.not_eq_true']
  constructor
  · rintro ⟨u, hv, hu, found, lost⟩
    rw [hv, Option.map_some, Option.some.injEq] at hu
    exact ⟨hv, hu ▸ lost, found⟩
  · rintro ⟨hv, lost, found⟩
    exact ⟨f v, hv, congrArg (Option.map f) hv, found, lost⟩

theorem State.mapTracks_same {s : State} {f : Track → Track} (h : ∀ t, f t = t) : s.mapTracks f = s := by
  have slots : s.table.slots.map (Option.map f) = s.table.slots := Bank.ext_get fun i => by
    rw [Bank.get_map, funext h]
    exact congrFun Option.map_id _
  simp only [State.mapTracks, slots]

theorem State.anyTrack_eq_false {s : State} {p : Track → Bool} (h : ∀ t, p t = false) : s.anyTrack p = false := by
  rw [← Bool.not_eq_true, State.anyTrack_iff]
  rintro ⟨i, v, _, pv⟩
  exact Bool.false_ne_true ((h v).symm.trans pv)

/-- What the change of one group's presence makes of a record, the receiver having changed from `before` (R47). -/
def State.groupMove (s : State) (before : LaneRx) (l : Fin 8) (g : Fin 4) (t : Track) : Track :=
  t.moveGroup before (s.rx.get l) l s.view s.gain.rampLength g

/-- What the changes of several groups make of a record. -/
def State.groupMoves (s : State) (before : LaneRx) (l : Fin 8) (gs : List (Fin 4)) (t : Track) : Track :=
  t.moveGroups before (s.rx.get l) l s.view s.gain.rampLength gs

/-- The records changed by `f`, and SOURCE_LOST reported for those newly lost. -/
def State.movedBy (s : State) (f : Track → Track) : State :=
  (s.mapTracks f).reportIf (s.anyTrack (Track.losesBy f)) .sourceLost

/-- Where no record is newly lost, nothing is reported. -/
theorem State.movedBy_of_kept {s : State} {f : Track → Track} (h : ∀ t, (f t).sourceLost = true → t.sourceLost = true) :
    s.movedBy f = s.mapTracks f := by
  have none : s.anyTrack (Track.losesBy f) = false := State.anyTrack_eq_false fun t => by
    have := h t
    rw [Track.losesBy]
    grind
  rw [State.movedBy, none]
  rfl

/-- Two changes of records are one, where neither undoes what the other loses. -/
theorem State.movedBy_movedBy {f g : Track → Track}
    (h : ∀ t, t.losesBy (fun u => g (f u)) = (t.losesBy f || (f t).losesBy g)) (s : State) :
    (s.movedBy f).movedBy g = s.movedBy fun t => g (f t) := by
  have slots : (s.table.slots.map (Option.map f)).map (Option.map g) = s.table.slots.map (Option.map fun t => g (f t)) :=
    Bank.ext_get fun i => by simp [Function.comp_def]
  have newly : s.anyTrack (Track.losesBy fun t => g (f t)) =
      (s.anyTrack (Track.losesBy f) || (s.movedBy f).anyTrack (Track.losesBy g)) :=
    (congrArg s.anyTrack (funext h)).trans ((s.anyTrack_or ..).trans
      (congrArg (s.anyTrack (Track.losesBy f) || ·) (s.anyTrack_mapTracks f _).symm))
  have whole : s.movedBy (fun t => g (f t)) = (s.mapTracks fun t => g (f t)).reportIf
      (s.anyTrack (Track.losesBy f) || (s.movedBy f).anyTrack (Track.losesBy g)) .sourceLost :=
    congrArg (State.reportIf (s.mapTracks fun t => g (f t)) · .sourceLost) newly
  rw [whole]
  simp only [State.movedBy, State.reportIf, State.mapTracks, Attention.reportIf_reportIf, slots]

theorem State.sourcesLost_eq_movedBy (s : State) (gone : Source → Bool) :
    s.sourcesLost gone = s.movedBy fun t => t.lose gone := by
  rw [State.sourcesLost_eq, Table.anyNewlyLost_mapTracks]
  rfl

/-- The change of one group's presence moves each record, and reports those newly lost. -/
theorem State.groupChange_eq (before : LaneRx) (l : Fin 8) (s : State) (g : Fin 4) :
    State.groupChange before l s g = s.movedBy (s.groupMove before l g) := by
  rcases before.groupPresent_cases (s.rx.get l) g with ⟨was, is⟩ | ⟨was, is⟩ | same
  · have lose : s.groupMove before l g = fun t => t.lose (ofGroup l g) := funext fun t => Track.moveGroup_lost was is
    rw [lose, ← State.sourcesLost_eq_movedBy]
    simp only [State.groupChange, was, is]
  · have back : s.groupMove before l g = fun t => t.comeBack s.view s.gain.rampLength (ofGroup l g) :=
      funext fun t => Track.moveGroup_back was is
    rw [back, State.movedBy_of_kept]
    · simp only [State.groupChange, was, is]
      rfl
    · intro t lost
      rw [Track.comeBack_sourceLost, Bool.and_eq_true] at lost
      exact lost.2
  · have still (t : Track) : s.groupMove before l g t = t := Track.moveGroup_same same
    rw [State.movedBy_of_kept fun t lost => by rwa [still] at lost, State.mapTracks_same still]
    cases is : (s.rx.get l).groupPresent g <;> simp [State.groupChange, same, is]

/-- The changes of several groups move each record by all of them, and report those newly lost in all. -/
theorem State.groupChanges_eq (before : LaneRx) (l : Fin 8) (s : State) (gs : List (Fin 4)) :
    gs.foldl (State.groupChange before l) s = s.movedBy (s.groupMoves before l gs) := by
  induction gs using List.reverseRecOn with
  | nil =>
    have still (t : Track) : s.groupMoves before l [] t = t := rfl
    rw [State.movedBy_of_kept fun t lost => by rwa [still] at lost, State.mapTracks_same still, List.foldl_nil]
  | append_singleton gs g ih =>
    have joined : s.groupMoves before l (gs ++ [g]) = fun t => s.groupMove before l g (s.groupMoves before l gs t) :=
      funext (Track.moveGroups_append gs g)
    rw [List.foldl_append, ih, List.foldl_cons, List.foldl_nil, State.groupChange_eq, joined]
    exact State.movedBy_movedBy (Track.losesBy_moveGroups_next gs g) s

/-! ### The receiver and the transmitter at a line (R33 to R37, R42, R43, R135) -/

/-- Whether a receiver's state or the presence of any group has changed (R37). -/
def LaneRx.Differs (before after : LaneRx) : Prop :=
  after.state ≠ before.state ∨ ∃ g, (after.groups.get g).present ≠ (before.groups.get g).present

theorem LaneRx.changed_iff (before after : LaneRx) : before.changed after = true ↔ before.Differs after := by
  have every (p : Fin 4 → Bool) : [0, 1, 2, 3].any p = true ↔ ∃ g, p g = true :=
    List.any_eq_true.trans (exists_congr fun g => and_iff_right (by revert g; decide))
  simp only [LaneRx.changed, LaneRx.Differs, Bool.or_eq_true, every, bne_iff_ne, ne_comm]

/-- From `s` to `t` the records have moved with the groups of lane `l`, SOURCE_LOST and LANE_CHANGE reported where they
fell (R37, R47). -/
def State.MovedWith (s t : State) (l : Fin 8) : Prop :=
  t.table = { s.table with slots := t.table.slots } ∧
  (∀ i, t.table.slots.get i = (s.table.slots.get i).map
    (Track.moveGroups (s.rx.get l) (t.rx.get l) l t.view s.gain.rampLength [0, 1, 2, 3])) ∧
  ∃ a, s.attn.Reports a .sourceLost (s.table.NewlyLost t.table) ∧
    a.Reports t.attn .laneChange ((s.rx.get l).Differs (t.rx.get l))

/-- The part with receiver `x` and transmitter `tx` for lane `l`, the change of the receiver's sources handed to the
table. -/
def State.received (s : State) (l : Fin 8) (x : LaneRx) (tx : LaneTx) : State := (s.changeRx l x).setTx l tx

section
variable (s : State) (l : Fin 8) (x : LaneRx) (tx : LaneTx)

theorem State.changeRx_eq : s.changeRx l x =
    ((s.setRx l x).movedBy ((s.setRx l x).groupMoves (s.rx.get l) l [0, 1, 2, 3])).reportIf
      ((s.rx.get l).changed x) .laneChange := by
  rw [State.changeRx, State.groupChanges_eq]

theorem State.received_frame : s.received l x tx = { s with
    rx := s.rx.set l x, tx := s.tx.set l tx, table := (s.received l x tx).table, attn := (s.received l x tx).attn } := by
  unfold State.received
  rw [State.changeRx_eq]
  rfl

theorem State.received_rx : (s.received l x tx).rx = s.rx.set l x := by rw [State.received_frame]

theorem State.received_rx_get : (s.received l x tx).rx.get l = x := by rw [State.received_rx, Bank.get_set_self]

theorem State.received_tx_get : (s.received l x tx).tx.get l = tx := Bank.get_set_self ..

theorem State.received_movedWith : s.MovedWith (s.received l x tx) l := by
  rw [State.MovedWith, State.received_rx_get]
  have place : (s.setRx l x).rx.get l = x := Bank.get_set_self ..
  have moves : (s.setRx l x).groupMoves (s.rx.get l) l [0, 1, 2, 3] =
      Track.moveGroups (s.rx.get l) x l (s.setRx l x).view s.gain.rampLength [0, 1, 2, 3] := by
    unfold State.groupMoves
    rw [place]
    rfl
  unfold State.received
  rw [State.changeRx_eq, moves]
  refine ⟨rfl, fun i => Bank.get_map .., _, ⟨_, ?_, rfl⟩, _, LaneRx.changed_iff .., rfl⟩
  rw [← Table.anyNewlyLost_mapTracks]
  exact Table.anyNewlyLost_iff ..
end

/-- At a switch line the transmitter is handed the line where the receiver found it LOCKED (R37, R135). -/
def LaneTx.handedLine (tx : LaneTx) (before after : LaneRx) : LaneTx := { tx with
  handed := tx.handed ++ if before.state = .locked then [⟨after.format, []⟩] else [] }

/-- The receiver after a switch line with this line count, at the clock. -/
def State.atLine (s : State) (l : Fin 8) (lines : Nat) : LaneRx :=
  (s.rx.get l).atSwitchLine s.now (classify lines (s.now - (s.rx.get l).lastLine))

theorem State.lineReceived_eq (s : State) (l : Fin 8) (lines : Nat) : s.lineReceived l lines =
    s.received l (s.atLine l lines) ((s.tx.get l).handedLine (s.rx.get l) (s.atLine l lines)) := by
  have tx (x : LaneRx) : (s.changeRx l x).tx = s.tx := (s.tableOnly_changeRx l x).tx
  have rx (x : LaneRx) : (s.changeRx l x).rx.get l = x := by
    rw [(s.tableOnly_changeRx l x).rx]
    exact Bank.get_set_self ..
  unfold State.lineReceived State.received LaneTx.handedLine
  dsimp only
  split
  · rw [State.hand, tx, rx]
    rfl
  · rw [List.append_nil, ← State.atLine, State.setTx, ← tx, Bank.set_get]

theorem State.feedCut_eq (s : State) (l : Fin 8) :
    s.feedCut l = s.received l (s.rx.get l).lost (s.tx.get l).feedLost := by
  have tx : (s.changeRx l (s.rx.get l).lost).tx = s.tx := (s.tableOnly_changeRx l _).tx
  rw [State.feedCut, tx]
  rfl

/-! ### The receiver's states, case by case (R33 to R36, R42, R43) -/

/-- A group of a LOCKED receiver whose format is kept is classed by its frame (R42, R43). -/
def GroupRx.judged (g : GroupRx) : GroupRx :=
  if g.good = g.present then { g.clearMarks with hysteresis := 0 }
  else if g.hysteresis = 0 then { g.clearMarks with hysteresis := 1 }
  else { g.clearMarks with present := g.good, hysteresis := 0, depth := 0 }

theorem GroupRx.classed_clearMarks (g : GroupRx) : g.classed.clearMarks = g.judged := by
  unfold GroupRx.classed GroupRx.judged
  by_cases first : g.hysteresis = 0
  · cases present : g.present <;> cases good : g.good <;>
      simp [first, GroupRx.clearMarks, present]
  · have second : 2 ≤ g.hysteresis + 1 := by omega
    cases present : g.present <;> cases good : g.good <;>
      simp [first, second, GroupRx.clearMarks, GroupRx.absent, present]

section
variable {rx : LaneRx} {now : Nat} {cls : Option Format} {f : Format}

theorem LaneRx.atSwitchLine_noSignal (state : rx.state = .noSignal) :
    rx.atSwitchLine now cls = ⟨.seeking, none, none, 0, none, now, rx.groups⟩ := by
  simp only [LaneRx.atSwitchLine, state]

theorem LaneRx.atSwitchLine_unrecognised (state : rx.state = .seeking) :
    rx.atSwitchLine now none = ⟨.seeking, rx.format, none, 0, none, now, rx.groups⟩ := by
  simp [LaneRx.atSwitchLine, state]

theorem LaneRx.atSwitchLine_first (state : rx.state = .seeking) (other : rx.candidate ≠ some f) :
    rx.atSwitchLine now (some f) = ⟨.seeking, rx.format, some f, 1, none, now, rx.groups⟩ := by
  simp [LaneRx.atSwitchLine, state, countLock_other other]

theorem LaneRx.atSwitchLine_locks (state : rx.state = .seeking) (candidate : rx.candidate = some f)
    (count : rx.count = 1) : rx.atSwitchLine now (some f) =
      ⟨.locked, some f, some f, 2, none, now, rx.groups.map GroupRx.clearMarks⟩ := by
  simp [LaneRx.atSwitchLine, state, candidate, count]

theorem LaneRx.atSwitchLine_keeps (state : rx.state = .locked) (format : rx.format = some f) :
    rx.atSwitchLine now (some f) =
      ⟨.locked, some f, rx.candidate, rx.count, none, now, rx.groups.map GroupRx.judged⟩ := by
  simp [LaneRx.atSwitchLine, state, format, GroupRx.classed_clearMarks]

theorem LaneRx.atSwitchLine_leaves (state : rx.state = .locked) (format : rx.format = some f) (other : cls ≠ some f) :
    rx.atSwitchLine now cls = ⟨.seeking, none, cls, if cls.isSome then 1 else 0, none, now,
      rx.groups.map fun g => g.absent.clearMarks⟩ := by
  have lock : countLock none 0 cls = (cls, if cls.isSome then 1 else 0) := by
    cases cls with
    | none => rfl
    | some f => exact countLock_other (Option.some_ne_none f).symm _
  simp [LaneRx.atSwitchLine, state, format, other, lock]
end

/-! ### Requests by a lane's change (R160, R161) -/

/-- No LANE_CHANGE is reported: a request A that waits for one stands. -/
def Attention.NoLaneChange (a b : Attention) : Prop :=
  b.selectorA = a.selectorA ∧ (a.selectorA = some .laneChange → b.requestA = a.requestA)

section
variable {a b c : Attention}

theorem Attention.NoLaneChange.refl (a : Attention) : a.NoLaneChange a := ⟨rfl, fun _ => rfl⟩

theorem Attention.NoLaneChange.trans (h : a.NoLaneChange b) (k : b.NoLaneChange c) : a.NoLaneChange c := by
  obtain ⟨selector, request⟩ := h
  obtain ⟨selector', request'⟩ := k
  exact ⟨selector'.trans selector, fun chosen => (request' (selector.trans chosen)).trans (request chosen)⟩

theorem Attention.noLaneChange_reportIf (a : Attention) (falls : Bool) {o : Occurrence} (other : o ≠ .laneChange) :
    a.NoLaneChange (a.reportIf falls o) := by
  refine ⟨(a.follows_reportIf falls o).1, fun chosen => ?_⟩
  have ignored : a.selectorA ≠ some o := fun same => other (Option.some.inj (same.symm.trans chosen))
  cases falls <;> simp [Attention.reportIf, Attention.report, ignored]

theorem Attention.noLaneChange_reportOccupancy (a : Attention) (m n : Nat) :
    a.NoLaneChange (a.reportOccupancy m n) := by
  unfold Attention.reportOccupancy
  split
  · exact ⟨rfl, fun _ => rfl⟩
  · exact .refl a

theorem Attention.Reports.noLaneChange {o : Occurrence} {falls : Prop} (h : a.Reports b o falls)
    (other : o ≠ .laneChange) : a.NoLaneChange b := by
  obtain ⟨_, _, rfl⟩ := h
  exact a.noLaneChange_reportIf _ other

/-- The selected occurrence sets request A. -/
theorem Attention.Reports.requestA_iff {o : Occurrence} {falls : Prop} (h : a.Reports b o falls)
    (chosen : a.selectorA = some o) : b.requestA = true ↔ a.requestA = true ∨ falls := by
  obtain ⟨fell, iff, rfl⟩ := h
  rw [← iff]
  cases fell <;> simp [Attention.reportIf, Attention.report, chosen]
end

theorem State.MovedWith.selectorA {s t : State} {l : Fin 8} (h : s.MovedWith t l) :
    t.attn.selectorA = s.attn.selectorA := by
  obtain ⟨_, _, a, ⟨_, _, rfl⟩, _, _, changed⟩ := h
  rw [changed]
  exact ((Attention.follows_reportIf ..).trans (Attention.follows_reportIf ..)).1

/-- With LANE_CHANGE selected, request A is set by a change of the receiver and by nothing else. -/
theorem State.MovedWith.requestA_iff {s t : State} {l : Fin 8} (h : s.MovedWith t l)
    (chosen : s.attn.selectorA = some .laneChange) :
    t.attn.requestA = true ↔ s.attn.requestA = true ∨ (s.rx.get l).Differs (t.rx.get l) := by
  obtain ⟨_, _, a, lost, changed⟩ := h
  obtain ⟨selector, request⟩ := lost.noLaneChange nofun
  rw [changed.requestA_iff (selector.trans chosen), request chosen]

/-! ### What the reference unit leaves alone at the lines of its source (R18, R26, R28) -/

theorem State.SlipsOnly.noLaneChange {s t : State} (h : s.SlipsOnly t) : s.attn.NoLaneChange t.attn := by
  obtain ⟨slips, e⟩ := h
  rw [e]
  exact Attention.noLaneChange_reportIf _ _ nofun

theorem State.noLaneChange_settle (before s : State) : s.attn.NoLaneChange (State.settle before s).attn :=
  ((Attention.noLaneChange_reportIf s.attn _ (o := .sourceLost) nofun).trans
    (Attention.noLaneChange_reportIf _ _ (o := .switchesDone) nofun)).trans (Attention.noLaneChange_reportOccupancy ..)

theorem State.noLaneChange_instantWork (s : State) (early : BitVec 64) :
    s.attn.NoLaneChange (s.instantWork early).attn := by
  have step (u : State) : u.SlipsOnly (u.mapTracks Track.stepRamp) := ⟨false, rfl⟩
  have work := ((s.slipsOnly_draws .w24 ((consoleChannels early true).map .console)).trans (step _)).trans
    (State.slipsOnly_draws _ .w24 ((consoleChannels early false).map .console))
  unfold State.instantWork
  exact work.noLaneChange

theorem State.noLaneChange_completeInstant (s : State) : s.attn.NoLaneChange s.completeInstant.attn := by
  unfold State.completeInstant
  split
  · exact (s.withRef { s.ref with owed := false }).noLaneChange_instantWork 0
  · exact .refl _

theorem State.noLaneChange_switchPoint (u : State) (l : Fin 8) (x : LaneTx) :
    u.attn.NoLaneChange (u.switchPoint l x).attn :=
  State.noLaneChange_settle u ((u.setTx l x).landTable (Dest.onLane l))

theorem State.noLaneChange_beginOutgoingFrame (s : State) (l : Fin 8) (m : TxMode) (f : Format) (p : Nat) (b : Bool)
    (st : List TakenPacket) : s.attn.NoLaneChange (s.beginOutgoingFrame l m f p b st).attn := by
  obtain ⟨slips, finished⟩ := s.finishLine_frame l
  have line : s.attn.NoLaneChange (s.finishLine l).attn := by
    rw [finished]
    exact Attention.noLaneChange_reportIf _ _ nofun
  rw [State.beginOutgoingFrame_eq]
  exact line.trans (State.noLaneChange_switchPoint ..)

theorem State.noLaneChange_beginReferenceFrame (s : State) : s.attn.NoLaneChange s.beginReferenceFrame.attn := by
  have console : s.attn.NoLaneChange s.referenceBegun.attn :=
    s.noLaneChange_completeInstant.trans (State.noLaneChange_settle ..)
  have lanes (ls : List (Fin 8)) (f : Format) (p : Nat) (u : State) :
      u.attn.NoLaneChange (ls.foldl (State.beginFallback f p) u).attn := by
    induction ls generalizing u with
    | nil => exact .refl _
    | cons l ls ih => exact (u.noLaneChange_beginOutgoingFrame ..).trans (ih _)
  rw [State.beginReferenceFrame_eq]
  exact console.trans (lanes ..)

/-- What a move of the reference unit keeps of the clock, the receivers, the settings and the handed lines. -/
def State.KeepsReception (s t : State) : Prop :=
  t.now = s.now ∧ t.rx = s.rx ∧ t.console = s.console ∧ t.gain = s.gain ∧ t.port = s.port ∧
  (∀ l, (t.tx.get l).handed = (s.tx.get l).handed) ∧ s.attn.NoLaneChange t.attn

theorem State.KeepsReception.refl (s : State) : s.KeepsReception s := ⟨rfl, rfl, rfl, rfl, rfl, fun _ => rfl, .refl _⟩

/-- What stands of the part after a receiver's change, whatever the reference unit did then. -/
theorem State.KeepsReception.of_received {s t : State} {l : Fin 8} {x : LaneRx} {tx : LaneTx}
    (h : (s.received l x tx).KeepsReception t) : t.now = s.now ∧ t.rx = s.rx.set l (t.rx.get l) ∧
      t.console = s.console ∧ t.gain = s.gain ∧ t.port = s.port ∧ t.rx.get l = x ∧ (t.tx.get l).handed = tx.handed ∧
      (s.attn.selectorA = some .laneChange →
        (t.attn.requestA = true ↔ s.attn.requestA = true ∨ (s.rx.get l).Differs (t.rx.get l))) := by
  obtain ⟨now, rx, console, gain, port, handed, quiet⟩ := h
  have frame := s.received_frame l x tx
  have moved := s.received_movedWith l x tx
  have receiver : t.rx.get l = x := by rw [rx, State.received_rx_get]
  refine ⟨now.trans (by rw [frame]), ?_, console.trans (by rw [frame]), gain.trans (by rw [frame]),
    port.trans (by rw [frame]), receiver, (handed l).trans (by rw [State.received_tx_get]), fun chosen => ?_⟩
  · rw [receiver, rx, State.received_rx]
  · rw [rx, ← moved.requestA_iff chosen, quiet.2 (moved.selectorA.trans chosen)]

theorem State.KeepsReception.report {s t : State} (h : s.KeepsReception t) (before : State) :
    s.KeepsReception (State.reportReference before t) := by
  obtain ⟨now, rx, console, gain, port, handed, quiet⟩ := h
  exact ⟨now, rx, console, gain, port, handed, quiet.trans (Attention.noLaneChange_reportIf _ _ nofun)⟩

theorem State.keepsReception_withRef (s : State) (r : RefUnit) : s.KeepsReception (s.withRef r) := .refl s

/-- A frame start keeps the handed lines of every lane, whether it begins a frame there or not. -/
theorem State.keepsReception_begin (s : State) (r : RefUnit) : s.KeepsReception (s.withRef r).beginReferenceFrame := by
  have frame := (s.withRef r).beginReferenceFrame_frame
  refine ⟨by rw [frame]; rfl, by rw [frame]; rfl, by rw [frame]; rfl, by rw [frame]; rfl, by rw [frame]; rfl, fun l => ?_,
    (s.withRef r).noLaneChange_beginReferenceFrame⟩
  cases falls : (s.withRef r).fallsBack l with
  | false => rw [State.beginReferenceFrame_tx_of_not_fallsBack falls]; rfl
  | true =>
    obtain ⟨blanking, tx, _⟩ := State.beginReferenceFrame_tx_of_fallsBack falls
    rw [tx]
    rfl

theorem State.keepsReception_sourceSwitchLine (s : State) (cls : Option (Option Format)) (period : Nat) :
    s.KeepsReception (s.sourceSwitchLine cls period) := by
  unfold State.sourceSwitchLine
  dsimp only
  split
  · exact .refl s
  · exact s.keepsReception_withRef _
  · split
    · exact s.keepsReception_begin _
    · exact s.keepsReception_withRef _
  · exact s.keepsReception_begin _
  · split <;> exact s.keepsReception_begin _

theorem State.keepsReception_sourceLoss (s : State) : s.KeepsReception s.sourceLoss := by
  unfold State.sourceLoss
  dsimp only
  split
  · exact .refl s
  · exact s.keepsReception_withRef _
  · exact s.keepsReception_begin _

/-! ### The rows LANE_SWITCH_LINE and LANE_FEED_LOST -/

section
variable {s : State} (released : s.resetHeld = false) (l : Fin 8)
include released

/-- A switch line does the receiver's and the transmitter's part, and then at most moves the reference unit. -/
theorem exec_laneSwitchLine_received (lines after : Nat) : ∃ t, exec (.laneSwitchLine l lines after) s = .next t ∧
    ((s.elapse after).lineReceived l lines).KeepsReception t ∧
    (s.ref.source ≠ .lane l → t = (s.elapse after).lineReceived l lines) := by
  by_cases source : s.ref.source = .lane l
  · exact ⟨_, exec_laneSwitchLine_source released source lines after,
      (State.keepsReception_sourceSwitchLine ..).report _, fun other => absurd source other⟩
  · exact ⟨_, exec_laneSwitchLine_other released source lines after, .refl _, fun _ => rfl⟩

/-- A loss of the feed does the receiver's and the transmitter's part, and then at most moves the reference unit. -/
theorem exec_laneFeedLost_received (feed : (s.rx.get l).state ≠ .noSignal) : ∃ t, exec (.laneFeedLost l) s = .next t ∧
    (s.laneCut l).KeepsReception t ∧ (s.ref.source ≠ .lane l → t = s.laneCut l) := by
  by_cases source : s.ref.source = .lane l
  · exact ⟨_, exec_laneFeedLost_source released source feed, (State.keepsReception_sourceLoss _).report _,
      fun other => absurd source other⟩
  · exact ⟨_, exec_laneFeedLost_other released source feed, .refl _, fun _ => rfl⟩
end

/-- Settles O50: both rows leave lane `l` with a receiver and a transmitter known case by case, its sources' changes
handed to the table; a move of the reference unit that follows keeps what is stated of it. -/
theorem laneLinesMoveTheReceiver : Obligations.LaneLinesMoveTheReceiver := by
  intro s l lines after released
  dsimp only
  refine ⟨?line, exec_laneFeedLost_none released, fun feed => ?lost⟩
  case line =>
    obtain ⟨t, row, kept, alone⟩ := exec_laneSwitchLine_received released l lines after
    rw [State.lineReceived_eq] at kept alone
    obtain ⟨now, rx, console, gain, port, receiver, handed, request⟩ := kept.of_received
    refine ⟨t, row, now, rx, console, gain, port, ?handed, fun state => ?opens, fun state unrecognised => ?none,
      fun f state one candidate => ?first, fun f state one candidate count => ?locks, fun f state format same => ?keeps,
      fun f state format other => ?leaves, request, fun other => ?alone⟩
    case handed => rw [handed, receiver]; rfl
    case alone =>
      obtain rfl := alone other
      refine ⟨State.received_movedWith .., ?_⟩
      rw [State.received_rx, State.received_tx_get]
      exact State.received_frame ..
    all_goals rw [receiver, State.atLine, State.elapse_now, State.elapse_rx]
    case opens => exact LaneRx.atSwitchLine_noSignal state
    case none =>
      rw [unrecognised]
      exact LaneRx.atSwitchLine_unrecognised state
    case first =>
      rw [one]
      exact LaneRx.atSwitchLine_first state candidate
    case locks =>
      rw [one]
      exact LaneRx.atSwitchLine_locks state candidate count
    case keeps =>
      rw [same]
      exact LaneRx.atSwitchLine_keeps state format
    case leaves => exact LaneRx.atSwitchLine_leaves state format other
  case lost =>
    obtain ⟨t, row, kept, alone⟩ := exec_laneFeedLost_received released l feed
    rw [State.laneCut, State.feedCut_eq] at kept alone
    obtain ⟨now, rx, console, gain, port, receiver, handed, request⟩ := kept.of_received
    refine ⟨t, row, now, ?rx, console, gain, port, fun chosen => ?request, fun other => ?alone⟩
    case rx =>
      rw [rx, receiver]
      rfl
    case request => exact (request chosen).2 (.inr (.inl (by rw [receiver]; exact Ne.symm feed)))
    case alone =>
      obtain rfl := alone other
      refine ⟨State.received_movedWith .., ?_⟩
      rw [State.received_rx, now]
      exact State.received_frame ..

end Sys2Proof.Machine
end

section
/-! The destination map and the sets of labels (spec 04 sections 4.3, 4.5 and 4.7), and what keeps lists, placement and map
together. -/

namespace Sys2Proof.Machine

/-! ### The destination map (R63) -/

/-- Claiming destinations names the label for them and leaves the others. -/
theorem Table.ownerOf_claim (tab : Table) (ds : List Dest) (label : Nat) (d : Dest) :
    (tab.claim ds label).ownerOf d = if d ∈ ds then some label else tab.ownerOf d := by
  simp only [Table.ownerOf, Table.claim]
  generalize tab.map = m
  induction ds generalizing m with
  | nil => simp
  | cons e ds ih =>
    rw [List.foldl_cons, ih, Bank.get_set]
    by_cases he : e = d
    · simp [he]
    · have : e.index ≠ d.index := fun same => he (Dest.index_injective same)
      simp [this, Ne.symm he]

@[simp] theorem Table.ownerOf_put (tab : Table) (i : Fin 256) (o : Option Track) (d : Dest) :
    (tab.put i o).ownerOf d = tab.ownerOf d := rfl

theorem Table.holds_put {tab : Table} {i j : Fin 256} {o : Option Track} {t : Track} :
    (tab.put i o).holds j t ↔ if i = j then o = some t else tab.holds j t := by
  rw [Table.holds, Table.put_slots, Bank.get_set]
  split <;> rfl

/-! ### Lists made shorter (R57, R63) -/

/-- A slot's record with its list less the destinations `ds`; it may be freed where that empties the list. -/
inductive Thinned (ds : List Dest) : Option Track → Option Track → Prop
  | empty : Thinned ds none none
  | stays {t u : Track} (label : u.label = t.label)
      (list : u.entries.map (·.dest) = (t.entries.map (·.dest)).filter (· ∉ ds)) : Thinned ds (some t) (some u)
  | freed {t : Track} (list : ∀ e ∈ t.entries, e.dest ∈ ds) : Thinned ds (some t) none

/-- Every record has its list less the destinations `ds`, and the map has released them. -/
def Table.Thins (ds : List Dest) (a b : Table) : Prop :=
  (∀ i, Thinned ds (a.slots.get i) (b.slots.get i)) ∧ ∀ d, b.ownerOf d = if d ∈ ds then none else a.ownerOf d

section
variable {ds : List Dest} {a b : Table}

theorem Table.Thins.holds_before (h : a.Thins ds b) {i : Fin 256} {u : Track} (held : b.holds i u) :
    ∃ t, a.holds i t ∧ u.label = t.label ∧
      u.entries.map (·.dest) = (t.entries.map (·.dest)).filter (· ∉ ds) := by
  have slot := h.1 i
  rw [show b.slots.get i = some u from held] at slot
  generalize before : a.slots.get i = o at slot
  cases slot with
  | stays label list => exact ⟨_, before, label, list⟩

theorem Table.Thins.holds_after (h : a.Thins ds b) {i : Fin 256} {t : Track} (held : a.holds i t) {e : Entry}
    (mem : e ∈ t.entries) (kept : e.dest ∉ ds) :
    ∃ u, b.holds i u ∧ u.label = t.label ∧ ∃ f ∈ u.entries, f.dest = e.dest := by
  have slot := h.1 i
  rw [show a.slots.get i = some t from held] at slot
  generalize after : b.slots.get i = o at slot
  cases slot with
  | stays label list =>
    refine ⟨_, after, label, List.mem_map.1 ?_⟩
    rw [list, List.mem_filter]
    exact ⟨List.mem_map_of_mem mem, by simpa using kept⟩
  | freed gone => exact absurd (gone e mem) kept

/-- Lists made shorter, with the map's entries released, leave a table sound. -/
theorem Table.Sound.thins (sound : a.Sound) (h : a.Thins ds b) : b.Sound := by
  obtain ⟨lists, ⟨placed, unique⟩, map⟩ := sound
  refine ⟨fun i u hu => ?list, ⟨fun i u hu => ?set, fun i j u v hu hv same => ?label⟩, fun d label => ?map⟩
  case list =>
    obtain ⟨t, ht, -, list⟩ := h.holds_before hu
    obtain ⟨eight, distinct⟩ := lists i t ht
    have shorter := List.length_filter_le (fun d => decide (d ∉ ds)) (t.entries.map (·.dest))
    rw [← list, List.length_map, List.length_map] at shorter
    exact ⟨shorter.trans eight, by rw [list]; exact distinct.filter _⟩
  case set =>
    obtain ⟨t, ht, label, -⟩ := h.holds_before hu
    rw [label]
    exact placed i t ht
  case label =>
    obtain ⟨t, ht, label, -⟩ := h.holds_before hu
    obtain ⟨t', ht', label', -⟩ := h.holds_before hv
    exact unique i j t t' ht ht' (by rw [← label, same, label'])
  case map =>
    rw [h.2 d]
    constructor
    · intro owner
      split at owner
      · cases owner
      · next kept =>
        obtain ⟨i, t, ht, rfl, e, mem, rfl⟩ := (map d label).1 owner
        obtain ⟨u, hu, label, entry⟩ := h.holds_after ht mem kept
        exact ⟨i, u, hu, label, entry⟩
    · rintro ⟨i, u, hu, rfl, f, mem, rfl⟩
      obtain ⟨t, ht, label, list⟩ := h.holds_before hu
      obtain ⟨here, kept⟩ := List.mem_filter.1 (list ▸ List.mem_map_of_mem (f := Entry.dest) mem)
      rw [if_neg (by simpa using kept), label]
      exact (map _ _).2 ⟨i, t, ht, rfl, List.mem_map.1 here⟩

/-- Records that keep their label and their list's destinations. -/
theorem Table.Related.thins (h : a.Related Track.SamePlace b) (map : b.map = a.map) : a.Thins [] b := by
  refine ⟨fun i => ?_, fun d => by rw [Table.ownerOf, map, if_neg List.not_mem_nil]; rfl⟩
  obtain slot := h i
  generalize a.slots.get i = o, b.slots.get i = o' at slot ⊢
  cases slot with
  | none => exact .empty
  | some same => exact .stays same.1 (by simpa using same.2)

/-- One slot's record thinned, and the destinations released. -/
theorem Table.thins_put {tab : Table} {i : Fin 256} {o : Option Track} (slot : Thinned ds (tab.slots.get i) o)
    (others : ∀ j t, tab.holds j t → j ≠ i → ∀ e ∈ t.entries, e.dest ∉ ds) :
    tab.Thins ds ((tab.put i o).release ds) := by
  refine ⟨fun j => ?_, Table.ownerOf_release _ ds⟩
  rw [Table.release_slots, Table.put_slots, Bank.get_set]
  split
  · next here =>
    rw [← here]
    exact slot
  · next other =>
    cases held : tab.slots.get j with
    | none => exact .empty
    | some t =>
      refine .stays rfl (List.filter_eq_self.2 fun d mem => ?_).symm
      obtain ⟨e, he, rfl⟩ := List.mem_map.1 mem
      simpa using others j t held (Ne.symm other) e he
end

/-! ### Destinations added (R61, R62, R86) -/

/-- The destinations in the list of what a slot holds. -/
def slotDests (o : Option Track) : List Dest := o.elim [] fun t => t.entries.map (·.dest)

/-- A record put into a slot of its label's set, its list what the slot's was and destinations that no track owned, which
it claims. -/
theorem Table.Sound.put_claim {tab : Table} (sound : tab.Sound) {i : Fin 256} {u : Track} {ds : List Dest}
    (list : u.ListLaw) (place : i ∈ waysOf u.label) (only : ∀ j t, tab.holds j t → (t.label = u.label ↔ j = i))
    (dests : u.entries.map (·.dest) = slotDests (tab.slots.get i) ++ ds) (free : ∀ d ∈ ds, tab.ownerOf d = none) :
    ((tab.put i (some u)).claim ds u.label).Sound := by
  obtain ⟨lists, ⟨placed, unique⟩, map⟩ := sound
  have holds {j : Fin 256} {t : Track} : ((tab.put i (some u)).claim ds u.label).holds j t ↔
      if i = j then some u = some t else tab.holds j t := Table.holds_put
  refine ⟨fun j t ht => ?list, ⟨fun j t ht => ?set, fun j k t v ht hv same => ?label⟩, fun d label => ?map⟩
  case list =>
    rw [holds] at ht
    split at ht
    · cases ht; exact list
    · exact lists j t ht
  case set =>
    rw [holds] at ht
    split at ht
    · next here => cases ht; exact here ▸ place
    · exact placed j t ht
  case label =>
    rw [holds] at ht hv
    split at ht <;> split at hv
    · next here here' => exact here.symm.trans here'
    · cases ht; exact absurd ((only k v hv).1 same.symm).symm ‹_›
    · cases hv; exact absurd ((only j t ht).1 same).symm ‹_›
    · exact unique j k t v ht hv same
  case map =>
    have mem : (∃ e ∈ u.entries, e.dest = d) ↔ d ∈ slotDests (tab.slots.get i) ∨ d ∈ ds := by
      rw [← List.mem_append, ← dests, List.mem_map]
    have slot : d ∈ slotDests (tab.slots.get i) ↔ ∃ t, tab.holds i t ∧ ∃ e ∈ t.entries, e.dest = d := by
      simp only [Table.holds]
      cases tab.slots.get i <;> simp [slotDests]
    rw [Table.ownerOf_claim, Table.ownerOf_put]
    constructor
    · intro owner
      split at owner
      · next claimed =>
        cases owner
        exact ⟨i, u, holds.2 (by rw [if_pos rfl]), rfl, mem.2 (.inr claimed)⟩
      · obtain ⟨j, t, ht, rfl, entry⟩ := (map d label).1 owner
        by_cases here : i = j
        · subst here
          exact ⟨i, u, holds.2 (by rw [if_pos rfl]), ((only i t ht).2 rfl).symm, mem.2 (.inl (slot.2 ⟨t, ht, entry⟩))⟩
        · exact ⟨j, t, holds.2 (by rwa [if_neg here]), rfl, entry⟩
    · rintro ⟨j, t, ht, rfl, entry⟩
      rw [holds] at ht
      split at ht
      · cases ht
        rcases mem.1 entry with stood | claimed
        · obtain ⟨t, ht, entry⟩ := slot.1 stood
          have owner : tab.ownerOf d = some u.label := (map d u.label).2 ⟨i, t, ht, (only i t ht).2 rfl, entry⟩
          rw [owner, ite_self]
        · rw [if_pos claimed]
      · have owner : tab.ownerOf d = some t.label := (map d t.label).2 ⟨j, t, ht, rfl, entry⟩
        have unclaimed : d ∉ ds := fun claimed => by rw [free d claimed] at owner; cases owner
        rw [if_neg unclaimed, owner]

end Sys2Proof.Machine
end

section
/-! What events leave of one record's label, list and staged items, and so of the table: the steps below keep lists,
placement and map sound, both counts right, and every held lane destination in an EMBED group. -/

namespace Sys2Proof.Machine

/-! ### One record (R54, R66, R81, R82) -/

section
variable (old t : Track) (R : Nat) (view : SourceView)

/-- The gain fields' part of an event touches the source-lost flag, gain now and the ramp only (R82, R119, R120). -/
theorem Track.regain_eq : Track.regain old t R = { t with
    sourceLost := (Track.regain old t R).sourceLost, gainNow := (Track.regain old t R).gainNow
    ramp := (Track.regain old t R).ramp } := by
  unfold Track.regain
  split
  · rfl
  · rw [Track.retarget_eq]

@[simp] theorem Track.regain_label : (Track.regain old t R).label = t.label := by rw [Track.regain_eq]
@[simp] theorem Track.regain_pendingSource : (Track.regain old t R).pendingSource = t.pendingSource := by
  rw [Track.regain_eq]
@[simp] theorem Track.regain_entries : (Track.regain old t R).entries = t.entries := by rw [Track.regain_eq]

@[simp] theorem Track.completeChange_label : (t.completeChange view).label = t.label := by
  unfold Track.completeChange
  split
  · rfl
  · split <;> rfl

@[simp] theorem Track.completeChange_dests :
    (t.completeChange view).entries.map (·.dest) = t.entries.map (·.dest) := by
  unfold Track.completeChange
  split
  · rfl
  · split
    · simp
    · rfl
end

/-- Entries replaced each by one for the same destination. -/
theorem Track.dests_map {es : List Entry} {f : Entry → Entry} (h : ∀ e, (f e).dest = e.dest) :
    (es.map f).map (·.dest) = es.map (·.dest) := by
  rw [List.map_map]
  exact List.map_congr_left fun e _ => h e

@[simp] theorem Entry.lose_dest (e : Entry) : e.lose.dest = e.dest := by
  unfold Entry.lose
  split <;> rfl

@[simp] theorem Entry.stay_dest (e : Entry) : e.stay.dest = e.dest := by
  unfold Entry.stay
  split <;> rfl

@[simp] theorem Entry.leave_dest (e : Entry) : e.leave.dest = e.dest := by
  unfold Entry.leave
  split <;> rfl

@[simp] theorem Entry.start_dest (e : Entry) (view : SourceView) (src : Source) : (e.start view src).dest = e.dest := rfl

@[simp] theorem Track.entryArrival_dest (t : Track) (depth : Nat) (e : Entry) :
    (t.entryArrival depth e).dest = e.dest := by
  unfold Track.entryArrival
  split
  · rfl
  · split <;> rfl

section
variable (t : Track)

theorem Track.samePlace_lose (gone : Source → Bool) : t.SamePlace (t.lose gone) := by
  refine ⟨?_, ?_⟩
  · unfold Track.lose
    dsimp only
    split <;> rfl
  · rw [Track.lose_entries]
    exact Track.dests_map fun e => by split <;> simp

/-- An entry that a return of sources starts anew, or leaves (R110). -/
def Track.entryBack (view : SourceView) (back : Source → Bool) (e : Entry) : Entry :=
  if back (t.effective e) && !e.phase.isJoining then e.start view (t.effective e) else e

theorem Track.comeBack_entries (view : SourceView) (R : Nat) (back : Source → Bool) :
    (t.comeBack view R back).entries = t.entries.map (t.entryBack view back) := by
  unfold Track.comeBack
  dsimp only
  split
  · exact Track.regain_entries ..
  · rfl

theorem Track.samePlace_comeBack (view : SourceView) (R : Nat) (back : Source → Bool) :
    t.SamePlace (t.comeBack view R back) := by
  refine ⟨?_, ?_⟩
  · unfold Track.comeBack
    dsimp only
    split
    · exact Track.regain_label ..
    · rfl
  · rw [Track.comeBack_entries]
    exact Track.dests_map fun e => by unfold Track.entryBack; split <;> rfl

theorem Track.samePlace_arrive (into : Source → Bool) (depth : Nat) : t.SamePlace (t.arrive into depth) :=
  ⟨rfl, Track.dests_map fun e => by split <;> simp⟩

theorem Track.samePlace_modifyEntry (d : Dest) {f : Entry → Entry} (h : ∀ e, (f e).dest = e.dest) :
    t.SamePlace (t.modifyEntry d f) :=
  ⟨rfl, Track.dests_map fun e => by split <;> simp [h]⟩

theorem Track.samePlace_amended (r : AmendRequest) (view : SourceView) (R : Nat) : t.SamePlace (t.amended r view R) := by
  unfold Track.amended
  dsimp only
  refine ⟨?_, ?_⟩
  · rw [Track.regain_label]
    split
    · rfl
    · split
      · rfl
      · exact Track.completeChange_label ..
  · rw [Track.regain_entries]
    split
    · rfl
    · split
      · rfl
      · rw [Track.completeChange_dests]
        exact Track.dests_map fun _ => rfl

/-! A phase that is neither JOINING nor LEAVING stays so when its entry starts, fills or is lost. -/

theorem Phase.withManner_staged {p : Phase} (m : Manner) (h : p.isJoining = false) :
    ((p.withManner m).isJoining || (p.withManner m).isLeaving) = (p.isJoining || p.isLeaving) := by
  cases p with
  | joining => cases h
  | filling | active | leaving _ => cases m <;> rfl

theorem Track.stagedItems_comeBack (view : SourceView) (R : Nat) (back : Source → Bool) :
    (t.comeBack view R back).stagedItems = t.stagedItems := by
  have pending : (t.comeBack view R back).pendingSource = t.pendingSource := by
    unfold Track.comeBack
    dsimp only
    split
    · exact Track.regain_pendingSource ..
    · rfl
  have entry (e : Entry) : ((t.entryBack view back e).phase.isJoining || (t.entryBack view back e).phase.isLeaving) =
      (e.phase.isJoining || e.phase.isLeaving) := by
    unfold Track.entryBack
    split
    · next h => exact Phase.withManner_staged _ (by simpa using (Bool.and_eq_true_iff.1 h).2)
    · rfl
  simp only [Track.stagedItems, pending, Track.comeBack_entries, List.countP_map, Function.comp_def, entry]

theorem Track.stagedItems_arrive (into : Source → Bool) (depth : Nat) :
    (t.arrive into depth).stagedItems = t.stagedItems := by
  have arrival (e : Entry) : ((t.entryArrival depth e).phase.isJoining || (t.entryArrival depth e).phase.isLeaving) =
      (e.phase.isJoining || e.phase.isLeaving) := by
    unfold Track.entryArrival
    split
    · rfl
    · split
      · next h =>
        refine Phase.withManner_staged _ ?_
        have filling := of_decide_eq_true (Bool.and_eq_true_iff.1 h).1
        cases phase : e.phase <;> simp_all [Phase.manner, Phase.isJoining]
      · rfl
  have entry (e : Entry) : ((if into (t.effective e) then t.entryArrival depth e else e).phase.isJoining ||
      (if into (t.effective e) then t.entryArrival depth e else e).phase.isLeaving) =
      (e.phase.isJoining || e.phase.isLeaving) := by
    split
    · exact arrival e
    · rfl
  simp only [Track.stagedItems, Track.arrive, List.countP_map, Function.comp_def, entry]
end

/-! ### One record at a switch point (R81, R82, R95) -/

section
variable (t : Track) (view : SourceView) (concerned : Dest → Bool)

/-- A switch point removes exactly the LEAVING entries concerned. -/
theorem Track.landEntries_dests : (t.landEntries view concerned).entries.map (·.dest) =
    (t.entries.filter fun e => !(concerned e.dest && e.phase.isLeaving)).map (·.dest) := by
  have one (e : Entry) :
      ((if concerned e.dest then t.entryAtSwitchPoint view e else some e).map (·.dest)) =
        if concerned e.dest && e.phase.isLeaving then none else some e.dest := by
    cases at' : concerned e.dest with
    | false => rfl
    | true =>
      unfold Track.entryAtSwitchPoint
      cases phase : e.phase with
      | joining | leaving _ => rfl
      | filling | active =>
        cases t.pendingSource with
        | none => rfl
        | some src =>
          cases e.taken <;> rfl
  rw [Track.landEntries, List.map_filterMap, ← List.filterMap_eq_map, List.filterMap_filter]
  refine List.filterMap_congr fun e _ => ?_
  rw [one]
  cases concerned e.dest && e.phase.isLeaving <;> rfl

/-- A record that a switch point leaves keeps its label, and its list but for the LEAVING entries concerned. -/
theorem Track.atSwitchPoint_some {t u : Track} {view : SourceView} {R : Nat} {concerned : Dest → Bool}
    (h : t.atSwitchPoint view R concerned = some u) : u.label = t.label ∧ u.entries.map (·.dest) =
      (t.entries.filter fun e => !(concerned e.dest && e.phase.isLeaving)).map (·.dest) := by
  unfold Track.atSwitchPoint at h
  dsimp only at h
  split at h
  · split at h
    · cases h
    · cases h
      exact ⟨by rw [Track.regain_label, Track.completeChange_label]; rfl,
        by rw [Track.regain_entries, Track.completeChange_dests, Track.landEntries_dests]⟩
  · next away =>
    cases h
    refine ⟨rfl, congrArg _ (List.filter_eq_self.2 fun e mem => ?_).symm⟩
    have : concerned e.dest = false := by
      rw [Bool.eq_false_iff]
      exact fun here => away (List.any_eq_true.2 ⟨e, mem, here⟩)
    rw [this]
    rfl

/-- A record that a switch point frees had no entry but LEAVING ones concerned. -/
theorem Track.atSwitchPoint_none {t : Track} {view : SourceView} {R : Nat} {concerned : Dest → Bool}
    (h : t.atSwitchPoint view R concerned = none) {e : Entry} (mem : e ∈ t.entries) :
    concerned e.dest = true ∧ e.phase.isLeaving = true := by
  unfold Track.atSwitchPoint at h
  dsimp only at h
  split at h
  · split at h
    · next freed =>
      have empty := List.isEmpty_iff.1 (Bool.and_eq_true_iff.1 freed).2
      have dests := congrArg (List.map (·.dest)) empty
      rw [Track.regain_entries, Track.completeChange_dests, Track.landEntries_dests, List.map_nil, List.map_eq_nil_iff,
        List.filter_eq_nil_iff] at dests
      simpa using dests e mem
    · cases h
  · cases h
end

end Sys2Proof.Machine
end

section
/-! Every operation on the part keeps the table sound, the counts right and held lane destinations in EMBED groups (R54, R56,
R63, R65, R66, R146). -/

namespace Sys2Proof.Machine

/-- From a sound table: the table stays sound, right counts stay right, and held lane destinations stay in EMBED groups. -/
structure State.KeepsTable (s t : State) : Prop where
  laws : s.table.Sound → t.table.Sound ∧ (s.CountLaw → t.CountLaw) ∧ (s.EmbedLaw → t.EmbedLaw)

theorem State.KeepsTable.refl (s : State) : s.KeepsTable s := ⟨fun sound => ⟨sound, id, id⟩⟩

theorem State.KeepsTable.trans {s t u : State} (h : s.KeepsTable t) (k : t.KeepsTable u) : s.KeepsTable u := by
  refine ⟨fun sound => ?_⟩
  obtain ⟨sound, counts, embeds⟩ := h.laws sound
  obtain ⟨sound, counts', embeds'⟩ := k.laws sound
  exact ⟨sound, counts' ∘ counts, embeds' ∘ embeds⟩

theorem State.keepsTable_foldl {α : Type} {f : State → α → State} (h : ∀ (s : State) a, s.KeepsTable (f s a))
    (xs : List α) (s : State) : s.KeepsTable (xs.foldl f s) := by
  induction xs generalizing s with
  | nil => exact .refl s
  | cons a xs ih => exact (h s a).trans (ih _)

/-! ### EMBED groups and owners (R63, R146) -/

/-- On a sound table the law on EMBED groups is one on the destinations that have an owner. -/
theorem State.embedLaw_iff {s : State} (sound : s.table.Sound) :
    s.EmbedLaw ↔ ∀ d, (s.table.ownerOf d).isSome → s.embeds d = true := by
  obtain ⟨-, -, map⟩ := sound
  constructor
  · intro law d owned
    obtain ⟨label, owner⟩ := Option.isSome_iff_exists.1 owned
    obtain ⟨i, t, held, -, e, mem, rfl⟩ := (map d label).1 owner
    exact law i t held e mem
  · intro law i t held e mem
    refine law e.dest ?_
    rw [(map e.dest t.label).2 ⟨i, t, held, rfl, e, mem, rfl⟩]
    rfl

/-- Whether a group is EMBED and would stay so is a matter of the transmitters. -/
theorem State.embeds_of_tx {s t : State} (h : t.tx = s.tx) (d : Dest) : t.embeds d = s.embeds d := by
  cases d with
  | console n => rfl
  | lane l g c => rw [State.embeds, h]; rfl

/-- A transmitter in whose groups what was EMBED, and would stay so, is and would. -/
theorem State.embeds_setTx {s : State} {l : Fin 8} {x : LaneTx} (h : ∀ g c, s.embeds (.lane l g c) = true →
    (s.setTx l x).embeds (.lane l g c) = true) (d : Dest) (embeds : s.embeds d = true) : (s.setTx l x).embeds d = true := by
  cases d with
  | console n => rfl
  | lane k g c =>
    by_cases same : l = k
    · subst same
      exact h g c embeds
    · rw [State.embeds, State.setTx_tx, Bank.get_set_ne _ _ same]
      exact embeds

/-- Lists made shorter, counts kept right and groups kept EMBED. -/
theorem State.keepsTable_thins {s t : State} (thins : s.table.Sound → ∃ ds, s.table.Thins ds t.table)
    (counts : s.CountLaw → t.CountLaw)
    (embeds : ∀ d, (s.table.ownerOf d).isSome → s.embeds d = true → t.embeds d = true) : s.KeepsTable t := by
  refine ⟨fun sound => ?_⟩
  obtain ⟨ds, thins⟩ := thins sound
  have after := sound.thins thins
  refine ⟨after, counts, fun law => (State.embedLaw_iff after).2 fun d owned => ?_⟩
  rw [thins.2] at owned
  split at owned
  · cases owned
  · exact embeds d owned ((State.embedLaw_iff sound).1 law d owned)

/-- Records changed in their slots, labels and lists' destinations kept. -/
theorem State.keepsTable_related {s t : State} (related : s.table.Related Track.SamePlace t.table)
    (map : t.table.map = s.table.map) (counts : s.CountLaw → t.CountLaw) (tx : t.tx = s.tx) : s.KeepsTable t :=
  State.keepsTable_thins (fun _ => ⟨[], related.thins map⟩) counts fun d _ => by rw [State.embeds_of_tx tx]; exact id

theorem Track.SamePlace.refl (t : Track) : t.SamePlace t := ⟨rfl, rfl⟩

/-- The other blocks have no part in the laws of the table. -/
theorem State.keepsTable_of_eq {s t : State} (table : t.table = s.table) (tx : t.tx = s.tx) : s.KeepsTable t := by
  refine State.keepsTable_related (by rw [table]; exact .refl Track.SamePlace.refl _) (by rw [table]) (fun law => ?_) tx
  rw [State.CountLaw, State.stagedItems, State.stagedLanes, table, tx]
  exact law

theorem State.keepsTable_reportIf (s : State) (b : Bool) (o : Occurrence) : s.KeepsTable (s.reportIf b o) :=
  State.keepsTable_of_eq rfl rfl
theorem State.keepsTable_withRef (s : State) (r : RefUnit) : s.KeepsTable (s.withRef r) := State.keepsTable_of_eq rfl rfl
theorem State.keepsTable_setRx (s : State) (l : Fin 8) (x : LaneRx) : s.KeepsTable (s.setRx l x) :=
  State.keepsTable_of_eq rfl rfl
theorem State.keepsTable_elapse (s : State) (after : Nat) : s.KeepsTable (s.elapse after) := State.keepsTable_of_eq rfl rfl
theorem State.keepsTable_reach (s : State) (due : Nat) : s.KeepsTable (s.reach due) := State.keepsTable_of_eq rfl rfl
theorem State.keepsTable_answer (s : State) (c : Command) (r : Result) (data : List Byte) :
    s.KeepsTable (s.answer c r data) := State.keepsTable_of_eq rfl rfl
theorem State.keepsTable_refuse (s : State) (c : Command) (r : Result) : s.KeepsTable (s.refuse c r) :=
  s.keepsTable_answer c r []
theorem State.keepsTable_refuseFrame (s : State) (code : Byte) (r : Result) : s.KeepsTable (s.refuseFrame code r) :=
  State.keepsTable_of_eq rfl rfl
theorem State.keepsTable_closePort (s : State) : s.KeepsTable s.closePort := State.keepsTable_of_eq rfl rfl
theorem State.keepsTable_reportReference (before s : State) : s.KeepsTable (State.reportReference before s) :=
  s.keepsTable_reportIf _ _

theorem State.keepsTable_setTx {s : State} {l : Fin 8} {x : LaneTx} (groups : x.groups = (s.tx.get l).groups)
    (staged : x.staged = (s.tx.get l).staged) : s.KeepsTable (s.setTx l x) := by
  refine State.keepsTable_thins (fun _ => ⟨[], Table.Related.thins (.refl Track.SamePlace.refl _) rfl⟩)
    (State.keepsCounts_setTx staged).countLaw fun d _ => State.embeds_setTx (fun g c embeds => ?_) d
  rw [State.embeds, State.setTx_tx, Bank.get_set_self, groups, staged]
  exact embeds

/-! ### Records in their slots -/

theorem State.keepsTable_mapTracks (s : State) {f : Track → Track} (place : ∀ t : Track, t.SamePlace (f t))
    (items : ∀ t, (f t).stagedItems = t.stagedItems) : s.KeepsTable (s.mapTracks f) :=
  State.keepsTable_related ((s.related_mapTracks f).mono fun v _ same => same ▸ place v) rfl
    (s.keepsCounts_mapTracks items).countLaw rfl

theorem State.keepsTable_stepRamps (s : State) : s.KeepsTable (s.mapTracks Track.stepRamp) :=
  s.keepsTable_mapTracks Track.samePlace_stepRamp fun t => by rw [Track.stepRamp_eq]; rfl

theorem State.keepsTable_sourcesLost (s : State) (gone : Source → Bool) : s.KeepsTable (s.sourcesLost gone) := by
  rw [State.sourcesLost_eq]
  exact (s.keepsTable_mapTracks (fun t => t.samePlace_lose gone) fun t => t.stagedItems_lose gone).trans
    (State.keepsTable_reportIf ..)

theorem State.keepsTable_sourcesBack (s : State) (back : Source → Bool) : s.KeepsTable (s.sourcesBack back) :=
  s.keepsTable_mapTracks (fun t => t.samePlace_comeBack ..) fun t => t.stagedItems_comeBack ..

theorem State.keepsTable_arrival (s : State) (into : Source → Bool) (depth : Nat) : s.KeepsTable (s.arrival into depth) :=
  (s.keepsTable_mapTracks (fun t => t.samePlace_arrive into depth) fun t => t.stagedItems_arrive into depth).trans
    (State.keepsTable_reportIf ..)

/-! ### Draws, lines and instants -/

theorem State.keepsTable_draw (s : State) (d : Dest) (w : WordLength) : s.KeepsTable (s.draw d w).2 :=
  State.keepsTable_related ((s.related_draw d w).mono fun _ _ => Track.DrawsOnly.samePlace) (s.slipsOnly_draw d w).map
    (s.keepsCounts_draw d w).countLaw (s.slipsOnly_draw d w).tx

theorem State.keepsTable_draws (s : State) (w : WordLength) (ds : List Dest) : s.KeepsTable (s.draws w ds).2 := by
  induction ds generalizing s with
  | nil => exact .refl s
  | cons d ds ih => exact (s.keepsTable_draw d w).trans (ih _)

theorem State.keepsTable_drawPackets (s : State) (l : Fin 8) (ps : List OpenPacket) :
    s.KeepsTable (s.drawPackets l ps).2 := by
  induction ps generalizing s with
  | nil => exact .refl s
  | cons p ps ih => exact (s.keepsTable_draws ..).trans (ih _)

theorem State.keepsTable_drawOne (s : State) (l : Fin 8) (g c : Fin 4) (ps : List OpenPacket) :
    s.KeepsTable (s.drawOne l g c ps).2 := by
  induction ps with
  | nil => exact .refl s
  | cons p ps ih =>
    unfold State.drawOne
    split
    · split
      · exact s.keepsTable_draw _ _
      · exact .refl s
    · exact ih

theorem State.keepsTable_drawListed (s : State) (l : Fin 8) (cs : List (Fin 4 × Fin 4)) (ps : List OpenPacket) :
    s.KeepsTable (s.drawListed l cs ps).2 := by
  induction cs generalizing s ps with
  | nil => exact .refl s
  | cons c cs ih => exact (s.keepsTable_drawOne l c.1 c.2 ps).trans (ih _ _)

theorem State.keepsTable_goOnLine (s : State) (l : Fin 8) (draws : Option (List (Fin 4 × Fin 4))) :
    s.KeepsTable (s.goOnLine l draws) := by
  unfold State.goOnLine
  split
  · exact .refl s
  · next line _ =>
    have drawn (u : List OpenPacket × State) (kept : s.KeepsTable u.2) (tx : u.2.tx = s.tx) :
        s.KeepsTable (u.2.setTx l ((s.tx.get l).withLine { line with packets := u.1 })) :=
      kept.trans (State.keepsTable_setTx (by rw [tx, LaneTx.withLine_groups]) (by rw [tx, LaneTx.withLine_staged]))
    split
    · exact drawn _ (s.keepsTable_drawPackets l _) (s.tableOnly_drawPackets l _).tx
    · exact drawn _ (s.keepsTable_drawListed l _ _) (s.tableOnly_drawListed l _ _).tx

theorem State.keepsTable_reachLine (s : State) (l : Fin 8) (line : LineReach) (flat : Bool) :
    s.KeepsTable (s.reachLine l line flat) :=
  (State.keepsTable_setTx (LaneTx.reached_groups ..) (LaneTx.reached_staged ..)).trans (State.keepsTable_goOnLine ..)

theorem State.keepsTable_instantWork (s : State) (early : BitVec 64) : s.KeepsTable (s.instantWork early) := by
  have drawn := ((s.keepsTable_draws .w24 ((consoleChannels early true).map .console)).trans
    (State.keepsTable_stepRamps _)).trans (State.keepsTable_draws _ .w24 ((consoleChannels early false).map .console))
  exact drawn.trans (State.keepsTable_of_eq rfl rfl)

theorem State.keepsTable_workInstant (s : State) (early : BitVec 64) : s.KeepsTable (s.workInstant early) :=
  (s.keepsTable_withRef _).trans (State.keepsTable_instantWork ..)

theorem State.keepsTable_completeInstant (s : State) : s.KeepsTable s.completeInstant := by
  unfold State.completeInstant
  split
  · exact s.keepsTable_workInstant 0
  · exact .refl s

theorem State.keepsTable_emitInstant (s : State) : s.KeepsTable s.emitInstant := State.keepsTable_of_eq rfl rfl

theorem State.keepsTable_reachFallbackLine (s : State) (l : Fin 8) (line : LineReach) :
    s.KeepsTable (s.reachFallbackLine l line) := by
  unfold State.reachFallbackLine
  dsimp only
  split
  · exact .refl s
  · split
    · exact s.keepsTable_reachLine ..
    · split
      · exact s.keepsTable_completeInstant.trans ((State.keepsTable_emitInstant _).trans (State.keepsTable_reachLine ..))
      · exact .refl s

/-! ### Switch points (R79, R80, R81, R146) -/

/-- On a sound table a switch point takes out of each list the destinations left, and the map releases them. -/
theorem State.landTable_thins {s : State} (sound : s.table.Sound) (concerned : Dest → Bool) :
    s.table.Thins (s.leftAt concerned) (s.landTable concerned).table := by
  refine ⟨fun i => ?_, s.ownerOf_landTable concerned⟩
  have slot : (s.landTable concerned).table.slots.get i =
      (s.table.slots.get i).bind fun t => t.atSwitchPoint s.view s.gain.rampLength concerned := Bank.get_map ..
  rw [slot]
  cases held : s.table.slots.get i with
  | none => exact .empty
  | some t =>
    have leaves (e : Entry) (mem : e ∈ t.entries) :
        e.dest ∈ s.leftAt concerned ↔ concerned e.dest = true ∧ e.phase.isLeaving = true := by
      rw [State.mem_leftAt]
      constructor
      · rintro ⟨j, v, hv, f, hf, same, at', leaving⟩
        obtain ⟨-, -, rfl⟩ := sound.owning_unique held mem hv hf same.symm
        exact ⟨at', leaving⟩
      · rintro ⟨at', leaving⟩
        exact ⟨i, t, held, e, mem, rfl, at', leaving⟩
    rw [Option.bind_some]
    cases after : t.atSwitchPoint s.view s.gain.rampLength concerned with
    | none => exact .freed fun e mem => (leaves e mem).2 (Track.atSwitchPoint_none after mem)
    | some u =>
      obtain ⟨label, list⟩ := Track.atSwitchPoint_some after
      refine .stays label ?_
      rw [list, List.filter_map]
      refine congrArg _ (List.filter_congr fun e mem => ?_)
      simp [leaves e mem]

theorem State.keepsTable_consoleSwitchPoint (s : State) : s.KeepsTable s.consoleSwitchPoint := by
  refine State.keepsTable_thins (fun sound => ⟨_, s.landTable_thins sound Dest.onConsole⟩)
    (fun law => State.settle_countLaw law _) fun d _ => ?_
  rw [State.embeds_of_tx (State.tableOnly_consoleSwitchPoint s).tx]
  exact id

/-- A group that is EMBED, and would stay so under a staged setting, is EMBED once that has landed. -/
theorem LaneSetting.embed_getD {now : LaneSetting} {staged : Option LaneSetting} {g : Fin 4}
    (force : (now.get g).disposition = .embed)
    (stays : staged.all (fun setting => (setting.get g).disposition = .embed) = true) :
    ((staged.getD now).get g).disposition = .embed := by
  cases staged with
  | none => exact force
  | some setting => exact of_decide_eq_true stays

/-- A lane's switch point lands a staged setting, under which an EMBED group with held destinations would stay so. -/
theorem State.keepsTable_switchPoint (u : State) (l : Fin 8) (m : TxMode) (f : Format) (p : Nat) (b : Bool)
    (st : List TakenPacket) : u.KeepsTable (u.switchPoint l ((u.tx.get l).beginning m f p b st)) := by
  refine State.keepsTable_thins (fun sound => ⟨u.leftAt (Dest.onLane l), ?thins⟩) (u.switchPoint_countLaw l _)
    fun d _ embeds => ?embeds
  case thins => exact State.landTable_thins (s := u.setTx l _) sound (Dest.onLane l)
  case embeds =>
    rw [State.embeds_of_tx (s := u.setTx l ((u.tx.get l).beginning m f p b st))
      (by rw [State.switchPoint_frame]; rfl)]
    refine State.embeds_setTx (fun g c embeds => ?_) d embeds
    rw [State.embeds, State.setTx_tx, Bank.get_set_self]
    simp only [State.embeds, Bool.and_eq_true, decide_eq_true_eq] at embeds
    obtain ⟨force, staged⟩ := embeds
    exact Bool.and_eq_true_iff.2 ⟨decide_eq_true (LaneSetting.embed_getD force staged), rfl⟩

theorem State.keepsTable_beginOutgoingFrame (s : State) (l : Fin 8) (m : TxMode) (f : Format) (p : Nat) (b : Bool)
    (st : List TakenPacket) : s.KeepsTable (s.beginOutgoingFrame l m f p b st) := by
  rw [State.beginOutgoingFrame_eq]
  exact (s.keepsTable_goOnLine l none).trans (State.keepsTable_switchPoint ..)

theorem State.keepsTable_handedFrameStart (s : State) (l : Fin 8) : s.KeepsTable (s.handedFrameStart l) := by
  unfold State.handedFrameStart
  dsimp only
  split
  · exact .refl s
  · next rest _ =>
    exact (State.keepsTable_setTx (x := { s.tx.get l with handed := rest }) rfl rfl).trans
      (State.keepsTable_beginOutgoingFrame ..)

theorem State.keepsTable_laneAtReferenceFrame (s : State) (l : Fin 8) : s.KeepsTable (s.laneAtReferenceFrame l) := by
  unfold State.laneAtReferenceFrame
  split
  · exact State.keepsTable_beginOutgoingFrame ..
  · exact .refl s

theorem State.keepsTable_beginReferenceFrame (s : State) : s.KeepsTable s.beginReferenceFrame :=
  s.keepsTable_completeInstant.trans ((State.keepsTable_withRef ..).trans ((State.keepsTable_consoleSwitchPoint _).trans
    (State.keepsTable_foldl (fun (s : State) (l : Fin 8) => s.keepsTable_laneAtReferenceFrame l) _ _)))

/-! ### The reference unit -/

theorem State.keepsTable_beginWith (s : State) (r : RefUnit) : s.KeepsTable (s.withRef r).beginReferenceFrame :=
  (s.keepsTable_withRef r).trans (State.keepsTable_beginReferenceFrame _)

theorem State.keepsTable_sourceSwitchLine (s : State) (c : Option (Option Format)) (p : Nat) :
    s.KeepsTable (s.sourceSwitchLine c p) := by
  unfold State.sourceSwitchLine
  dsimp only
  split
  · exact .refl s
  · exact s.keepsTable_withRef _
  · split
    · exact s.keepsTable_beginWith _
    · exact s.keepsTable_withRef _
  · exact s.keepsTable_beginWith _
  · split <;> exact s.keepsTable_beginWith _

theorem State.keepsTable_sourceLoss (s : State) : s.KeepsTable s.sourceLoss := by
  unfold State.sourceLoss
  dsimp only
  split
  · exact .refl s
  · exact s.keepsTable_withRef _
  · exact s.keepsTable_beginWith _

theorem State.keepsTable_endIfPassed (s : State) : s.KeepsTable s.endIfPassed := by
  unfold State.endIfPassed
  split
  · exact s.keepsTable_beginReferenceFrame
  · exact .refl s

theorem State.keepsTable_setReference (s : State) (src : RefSource) (f : Format) : s.KeepsTable (s.setReference src f) := by
  unfold State.setReference State.enterFree State.selectSource
  dsimp only
  refine State.KeepsTable.trans ?_ (State.keepsTable_reportReference ..)
  have stored : s.KeepsTable (s.withRef { s.ref with freeRun := f }) := s.keepsTable_withRef _
  split
  · exact stored
  · split
    · exact stored.trans ((State.keepsTable_withRef ..).trans (State.keepsTable_endIfPassed _))
    · split
      · exact stored.trans (State.keepsTable_withRef ..)
      · exact stored.trans ((State.keepsTable_withRef ..).trans (State.keepsTable_endIfPassed _))
      · exact stored.trans ((State.keepsTable_withRef ..).trans (State.keepsTable_endIfPassed _))

/-! ### The receivers -/

theorem State.keepsTable_changeRx (s : State) (l : Fin 8) (x : LaneRx) : s.KeepsTable (s.changeRx l x) := by
  have groups : (s.setRx l x).KeepsTable ([0, 1, 2, 3].foldl (State.groupChange (s.rx.get l) l) (s.setRx l x)) := by
    refine State.keepsTable_foldl (fun (s : State) (g : Fin 4) => ?_) _ _
    unfold State.groupChange
    split
    · exact s.keepsTable_sourcesLost _
    · exact s.keepsTable_sourcesBack _
    · exact .refl s
  exact (s.keepsTable_setRx l x).trans (groups.trans (State.keepsTable_reportIf ..))

theorem State.keepsTable_laneSwitchLine (s : State) (l : Fin 8) (n : Nat) : s.KeepsTable (s.laneSwitchLine l n) := by
  unfold State.laneSwitchLine
  dsimp only
  have received := s.keepsTable_changeRx l ((s.rx.get l).atSwitchLine s.now (classify n (s.now - (s.rx.get l).lastLine)))
  have handed (u : State) (f : Option Format) : u.KeepsTable (u.hand l f) := State.keepsTable_setTx rfl rfl
  split <;> split
  · exact received.trans ((handed ..).trans (State.keepsTable_sourceSwitchLine ..))
  · exact received.trans (State.keepsTable_sourceSwitchLine ..)
  · exact received.trans (handed ..)
  · exact received

theorem State.keepsTable_laneLoss (s : State) (l : Fin 8) : s.KeepsTable (s.laneLoss l) := by
  unfold State.laneLoss
  dsimp only
  have cut := (s.keepsTable_changeRx l (s.rx.get l).lost).trans
    (State.keepsTable_setTx (l := l) (x := ((s.changeRx l (s.rx.get l).lost).tx.get l).feedLost) rfl rfl)
  split
  · exact cut.trans (State.keepsTable_sourceLoss _)
  · exact cut

theorem LaneTx.keep_settings (tx : LaneTx) (p : TakenPacket) :
    (tx.keep p).groups = tx.groups ∧ (tx.keep p).staged = tx.staged := by
  unfold LaneTx.keep
  split
  · exact ⟨rfl, rfl⟩
  · split <;> exact ⟨rfl, rfl⟩

theorem State.keepsTable_takePacket (s : State) (l : Fin 8) (n : Nat) (p : Packet) : s.KeepsTable (s.takePacket l n p) := by
  unfold State.takePacket
  dsimp only
  split
  · refine State.KeepsTable.trans ?_ (State.keepsTable_setTx (LaneTx.keep_settings ..).1 (LaneTx.keep_settings ..).2)
    refine (s.keepsTable_setRx l _).trans (State.keepsTable_foldl (fun (s : State) set => ?_) _ _)
    unfold State.laneArrival
    dsimp only
    split
    · exact (s.keepsTable_setRx l _).trans (State.keepsTable_arrival ..)
    · exact s.keepsTable_setRx l _
  · exact s.keepsTable_setRx l _

theorem State.keepsTable_takeConsoleFrame (s : State) (bytes : List Byte) : s.KeepsTable (s.takeConsoleFrame bytes) := by
  have console (c : ConsoleRx) : s.KeepsTable { s with console := c } := State.keepsTable_of_eq rfl rfl
  unfold State.takeConsoleFrame
  dsimp only
  split
  · exact (console _).trans (State.keepsTable_arrival ..)
  · split
    · exact (console _).trans (State.keepsTable_sourcesLost ..)
    · exact console _
  · split
    · exact (console _).trans (State.keepsTable_sourcesBack ..)
    · exact console _
  · exact console _

end Sys2Proof.Machine
end

section
/-! Every command and every step on the table's laws (R54, R56, R63, R65, R66, R146, R148). -/

namespace Sys2Proof.Machine

/-! ### A table settled in place of the part's -/

/-- One slot's record in place, no staged item more or less. -/
theorem State.keepsTable_put {s : State} {i : Fin 256} {t u : Track} (held : s.table.holds i t) (place : t.SamePlace u)
    (items : u.stagedItems = t.stagedItems) : s.KeepsTable { s with table := s.table.put i (some u) } := by
  have slot : s.table.slots.get i = some t := held
  have records := Table.records_put s.table i (some u)
  have staged := State.stagedItems_put s (s.table.put i (some u)) i (some u) rfl
  rw [slot] at records staged
  have counts : s.KeepsCounts { s with table := s.table.put i (some u) } :=
    ⟨rfl, rfl, Nat.add_right_cancel records, Nat.add_right_cancel (staged.trans (by
      rw [slotItems, slotItems, Option.elim_some, Option.elim_some, items]))⟩
  refine State.keepsTable_related (fun j => ?_) rfl counts.countLaw rfl
  rw [Table.put_slots, Bank.get_set]
  split
  · next here =>
    rw [← here, slot]
    exact .some place
  · exact Table.Related.refl Track.SamePlace.refl s.table j

section
variable {s : State} {tab : Table}

/-- Lists made shorter, the event settled. -/
theorem State.keepsTable_settle_thins (h : s.table.Sound → ∃ ds, s.table.Thins ds tab) :
    s.KeepsTable (State.settle s { s with table := tab }) :=
  State.keepsTable_thins h (fun law => State.settle_countLaw law _) fun _ _ => id

/-- Destinations of EMBED groups claimed, the event settled. -/
theorem State.keepsTable_settle_claim {ds : List Dest} {label : Nat} (sound : s.table.Sound → (tab.claim ds label).Sound)
    (map : tab.map = s.table.map) (embeds : ∀ d ∈ ds, s.embeds d = true) :
    s.KeepsTable (State.settle s { s with table := tab.claim ds label }) := by
  refine ⟨fun before => ⟨sound before, fun law => State.settle_countLaw law _, fun law => ?_⟩⟩
  have after : (State.settle s { s with table := tab.claim ds label }).table.Sound := sound before
  refine (State.embedLaw_iff after).2 fun d owned => ?_
  have owner : (State.settle s { s with table := tab.claim ds label }).table.ownerOf d =
      if d ∈ ds then some label else s.table.ownerOf d := by
    change (tab.claim ds label).ownerOf d = _
    rw [Table.ownerOf_claim, Table.ownerOf, map]
    rfl
  rw [owner] at owned
  split at owned
  · next claimed => exact embeds d claimed
  · exact (State.embedLaw_iff before).1 law d owned

variable {label : Nat} {i : Fin 256} {t : Track} (found : s.table.lookup label = some (i, t))
include found

/-- One record keeps its label and its list's destinations, the event settled. -/
theorem State.keepsTable_settle_put {u : Track} (place : t.SamePlace u) :
    s.KeepsTable (State.settle s { s with table := s.table.put i (some u) }) := by
  obtain ⟨held, -, -⟩ := Table.lookup_eq_some found
  refine State.keepsTable_settle_thins fun _ => ⟨[], Table.thins_put (tab := s.table) (ds := []) ?_ ?_⟩
  · rw [show s.table.slots.get i = some t from held]
    exact .stays place.1 (by simpa using place.2)
  · simp

/-- One record's list less some of its destinations, which are released, the event settled. -/
theorem State.keepsTable_settle_release {o : Option Track} {ds : List Dest} (own : ∀ d ∈ ds, ∃ e ∈ t.entries, e.dest = d)
    (slot : t.ListLaw → Thinned ds (some t) o) :
    s.KeepsTable (State.settle s { s with table := (s.table.put i o).release ds }) := by
  obtain ⟨held, -, -⟩ := Table.lookup_eq_some found
  refine State.keepsTable_settle_thins fun sound => ⟨ds, Table.thins_put ?_ fun j v hv other e mem taken => ?_⟩
  · rw [show s.table.slots.get i = some t from held]
    exact slot (sound.1 i t held)
  · obtain ⟨f, hf, same⟩ := own e.dest taken
    exact other (sound.owning_unique hv mem held hf same.symm).1
end

/-! ### ADMIT and ATTACH (R59 to R62, R84 to R86) -/

/-- A label that finds no record has none (R58). -/
theorem Table.Sound.label_ne {tab : Table} (sound : tab.Sound) {label : Nat} (none : tab.lookup label = none) {i : Fin 256}
    {t : Track} (held : tab.holds i t) : t.label ≠ label := by
  rintro rfl
  rw [sound.2.1.lookup held] at none
  cases none

/-- A label's record stands in one slot (R56). -/
theorem Table.Sound.label_iff {tab : Table} (sound : tab.Sound) {i j : Fin 256} {t u : Track} (ht : tab.holds i t)
    (hu : tab.holds j u) : u.label = t.label ↔ j = i := by
  constructor
  · exact sound.2.1.2 j i u t hu ht
  · rintro rfl
    cases ht.symm.trans hu
    rfl

/-- An ADMIT in range names at most 8 destinations, all different (R59). -/
theorem AdmitRequest.listLaw {params : List Byte} {r : AdmitRequest} (read : readAdmit params = some r) (view : SourceView)
    (R : Nat) : (r.track view R).ListLaw := by
  have dests : (r.track view R).entries.map (·.dest) = r.dests := by
    simp [AdmitRequest.track, Entry.new, Function.comp_def]
  match params, read with
  | _ :: _ :: _ :: _ :: _ :: _ :: _ :: _ :: _ :: _ :: _ :: n :: rest, read =>
    obtain ⟨-, -, -, -, -, -, eight, list, distinct⟩ := readAdmit_eq_some_iff.1 read
    obtain ⟨count, -⟩ := readDests_eq_some_iff.1 list
    refine ⟨?_, by rw [dests]; exact distinct⟩
    rw [← List.length_map (f := (·.dest)), dests, ← count]
    exact eight

/-- Of a list of destinations none of which `p` holds of, `p` is false. -/
theorem forall_eq_false_of_not_any {α : Type} {p : α → Bool} {xs : List α} (h : ¬xs.any p = true) :
    ∀ x ∈ xs, p x = false := by simpa using h

theorem Table.Sound.put_admitted {tab : Table} (sound : tab.Sound) {params : List Byte} {r : AdmitRequest}
    (read : readAdmit params = some r) {i : Fin 256} (unknown : tab.lookup r.label = none)
    (way : tab.emptyWay r.label = some i) (free : ∀ d ∈ r.dests, tab.ownerOf d = none) (view : SourceView) (R : Nat) :
    ((tab.put i (some (r.track view R))).claim r.dests r.label).Sound := by
  obtain ⟨vacant, place⟩ := Table.emptyWay_eq_some way
  refine Table.Sound.put_claim (u := r.track view R) sound (AdmitRequest.listLaw read view R) place
    (fun j t held => ?_) ?_ free
  · have other : t.label ≠ r.label := sound.label_ne unknown held
    exact iff_of_false other fun here => by rw [Table.holds, here, vacant] at held; cases held
  · rw [vacant]
    simp [slotDests, AdmitRequest.track, Entry.new, Function.comp_def]

theorem State.keepsTable_doAdmit (s : State) (params : List Byte) : s.KeepsTable (s.doAdmit params) := by
  unfold State.doAdmit
  dsimp only
  split
  · exact s.keepsTable_refuse ..
  · next r read =>
    split
    · exact s.keepsTable_refuse ..
    · next unknown =>
      have unknown : s.table.lookup r.label = none := by simpa using unknown
      split
      · exact s.keepsTable_answer ..
      · next i way =>
        split
        · exact s.keepsTable_refuse ..
        · next free =>
          split
          · exact s.keepsTable_refuse ..
          · next embeds =>
            refine State.KeepsTable.trans ?_ (State.keepsTable_answer ..)
            refine State.keepsTable_settle_claim (fun sound => ?_) rfl fun d mem => ?_
            · exact sound.put_admitted read unknown way
                (fun d mem => by simpa using forall_eq_false_of_not_any free d mem) _ _
            · simpa using forall_eq_false_of_not_any embeds d mem

/-- A destination that is not in the list has no entry there. -/
theorem Track.entryFor_eq_none {t : Track} {d : Dest} : t.entryFor d = none ↔ ∀ e ∈ t.entries, e.dest ≠ d := by
  simp [Track.entryFor]

theorem Table.Sound.put_attached {tab : Table} (sound : tab.Sound) {label : Nat} {i : Fin 256} {t : Track} {d : Dest}
    {taken : Bool} (found : tab.lookup label = some (i, t)) (fresh : t.entryFor d = none)
    (room : t.entries.length < 8) (free : ∀ n, tab.ownerOf d = some n → n = label) :
    ((tab.put i (some { t with entries := t.entries ++ [Entry.new d taken] })).claim [d] label).Sound := by
  obtain ⟨held, rfl, place⟩ := Table.lookup_eq_some found
  have slot : tab.slots.get i = some t := held
  obtain ⟨-, distinct⟩ := sound.1 i t held
  have absent := Track.entryFor_eq_none.1 fresh
  refine sound.put_claim (u := { t with entries := t.entries ++ [Entry.new d taken] }) ⟨?_, ?_⟩ place
    (fun j u hu => (sound.label_iff held hu :)) ?_ ?_
  · simp only [List.length_append, List.length_singleton]
    omega
  · rw [List.map_append, List.nodup_append]
    refine ⟨distinct, by simp, fun d' mem d'' new => ?_⟩
    obtain ⟨e, he, rfl⟩ := List.mem_map.1 mem
    rw [show d'' = d by simpa [Entry.new] using new]
    exact absent e he
  · rw [slot]
    simp [slotDests, Entry.new]
  · intro d' mem
    obtain rfl := List.mem_singleton.1 mem
    cases owner : tab.ownerOf d' with
    | none => rfl
    | some n =>
      obtain rfl := free n owner
      obtain ⟨j, u, hu, label, e, he, same⟩ := (sound.2.2 d' _).1 owner
      obtain rfl := (sound.label_iff held hu).1 label
      cases held.symm.trans hu
      exact absurd same (absent e he)

theorem State.keepsTable_doAttach (s : State) (params : List Byte) : s.KeepsTable (s.doAttach params) := by
  unfold State.doAttach
  dsimp only
  split
  · exact s.keepsTable_refuse ..
  · next label d _ =>
    split
    · exact s.keepsTable_refuse ..
    · next i t found =>
      split
      · exact s.keepsTable_refuse ..
      · split
        · exact (State.keepsTable_settle_put found (t.samePlace_modifyEntry d Entry.stay_dest)).trans
            (State.keepsTable_answer ..)
        · next fresh =>
          split
          · exact s.keepsTable_refuse ..
          · next free =>
            split
            · exact s.keepsTable_refuse ..
            · next room =>
              split
              · exact s.keepsTable_refuse ..
              · next embeds =>
                refine State.KeepsTable.trans ?_ (State.keepsTable_answer ..)
                refine State.keepsTable_settle_claim (fun sound => ?_) rfl ?_
                · refine sound.put_attached found (Option.not_isSome_iff_eq_none.1 fresh) (Nat.lt_of_not_le room) ?_
                  intro n owner
                  simpa [owner] using free
                · simpa using embeds

/-! ### DETACH and RETIRE (R87, R88, R94, R95) -/

theorem State.keepsTable_doDetach (s : State) (params : List Byte) : s.KeepsTable (s.doDetach params) := by
  unfold State.doDetach
  dsimp only
  split
  · exact s.keepsTable_refuse ..
  · next label d _ =>
    split
    · exact s.keepsTable_refuse ..
    · next i t found =>
      split
      · exact s.keepsTable_refuse ..
      · split
        · exact s.keepsTable_refuse ..
        · split
          · exact s.keepsTable_refuse ..
          · next e entry =>
            refine State.KeepsTable.trans ?_ (State.keepsTable_answer ..)
            obtain ⟨mem, same⟩ := Track.entryFor_eq_some entry
            split
            · refine State.keepsTable_settle_release found (fun d' mem' => ?_) fun _ => .stays ?_ ?_
              · exact ⟨e, mem, same.trans (List.mem_singleton.1 mem').symm⟩
              · rw [Track.regain_label, Track.completeChange_label]
                rfl
              · rw [Track.regain_entries, Track.completeChange_dests, List.filter_map]
                exact congrArg _ (List.filter_congr fun f _ => by simp)
            · exact State.keepsTable_settle_put found (t.samePlace_modifyEntry d Entry.leave_dest)

theorem Track.mem_joiningDests {t : Track} {d : Dest} :
    d ∈ t.joiningDests ↔ ∃ e ∈ t.entries, e.phase.isJoining = true ∧ e.dest = d := by
  simp [Track.joiningDests, and_assoc]

/-- A retiring track keeps the destinations of its entries that were not JOINING (R94). -/
theorem Track.retire_dests {t : Track} (law : t.ListLaw) :
    t.retire.entries.map (·.dest) = (t.entries.map (·.dest)).filter (· ∉ t.joiningDests) := by
  rw [Track.retire, Track.dests_map Entry.leave_dest, List.filter_map]
  refine congrArg _ (List.filter_congr fun e mem => ?_)
  have joining : e.dest ∈ t.joiningDests ↔ e.phase.isJoining = true := by
    rw [Track.mem_joiningDests]
    constructor
    · rintro ⟨f, hf, joins, same⟩
      rwa [← List.inj_on_of_nodup_map law.2 hf mem same]
    · exact fun joins => ⟨e, mem, joins, rfl⟩
  cases joins : e.phase.isJoining <;> simp [joining, joins]

theorem State.keepsTable_doRetire (s : State) (params : List Byte) : s.KeepsTable (s.doRetire params) := by
  unfold State.doRetire
  dsimp only
  split
  · exact s.keepsTable_refuse ..
  · split
    · exact s.keepsTable_refuse ..
    · next i t found =>
      split
      · exact s.keepsTable_refuse ..
      · split
        · exact s.keepsTable_refuse ..
        · split
          · exact s.keepsTable_refuse ..
          · refine State.KeepsTable.trans (State.keepsTable_settle_release found (fun d mem => ?_) fun law => ?_)
              (State.keepsTable_answer ..)
            · obtain ⟨e, he, -, same⟩ := Track.mem_joiningDests.1 mem
              exact ⟨e, he, same⟩
            · split
              · next empty =>
                refine .freed fun e mem => Track.mem_joiningDests.2 ⟨e, mem, ?_, rfl⟩
                have none := List.isEmpty_iff.1 empty
                rw [Track.retire, List.map_eq_nil_iff, List.filter_eq_nil_iff] at none
                simpa using none e mem
              · exact .stays rfl (Track.retire_dests law)

/-! ### AMEND, GUARD and LANE (R71, R90, R147 to R149) -/

theorem State.keepsTable_doAmend (s : State) (params : List Byte) : s.KeepsTable (s.doAmend params) := by
  unfold State.doAmend
  dsimp only
  split
  · exact s.keepsTable_refuse ..
  · split
    · exact s.keepsTable_refuse ..
    · next t found =>
      repeat' split
      all_goals first
        | exact s.keepsTable_refuse ..
        | exact (State.keepsTable_settle_put found (t.samePlace_amended ..)).trans (State.keepsTable_answer ..)

theorem State.keepsTable_doGuard (s : State) (params : List Byte) : s.KeepsTable (s.doGuard params) := by
  unfold State.doGuard
  split
  · exact s.keepsTable_refuse ..
  · next on _ =>
    split
    · exact s.keepsTable_refuse ..
    · next t found =>
      split
      · exact s.keepsTable_refuse ..
      · exact (State.keepsTable_put (u := { t with guarded := on }) (Table.lookup_eq_some found).1 ⟨rfl, rfl⟩
          rfl).trans (State.keepsTable_answer ..)

theorem State.ownedChannels_pos {s : State} {l : Fin 8} {g c : Fin 4} (owned : (s.table.ownerOf (.lane l g c)).isSome) :
    0 < s.ownedChannels l g := by
  rw [State.ownedChannels, List.countP_pos_iff]
  exact ⟨c, by fin_cases c <;> simp, owned⟩

/-- A setting that moves no EMBED group with owned channels away from EMBED leaves each owned one in it (R148). -/
theorem State.embed_of_not_groupInUse {s : State} {l : Fin 8} {setting : LaneSetting}
    (accepted : s.groupInUse l setting = false) {g c : Fin 4} (owned : (s.table.ownerOf (.lane l g c)).isSome)
    (force : ((s.tx.get l).groups.get g).disposition = .embed) : (setting.get g).disposition = .embed := by
  have group := List.any_eq_false.1 accepted g (by fin_cases g <;> simp)
  simpa [force, State.ownedChannels_pos owned] using group

theorem State.keepsTable_doLane (s : State) (params : List Byte) : s.KeepsTable (s.doLane params) := by
  unfold State.doLane
  split
  · exact s.keepsTable_refuse ..
  · next l setting _ =>
    split
    · exact s.keepsTable_refuse ..
    · next accepted =>
      refine State.KeepsTable.trans ?_ (State.keepsTable_answer ..)
      refine State.keepsTable_thins (fun _ => ⟨[], Table.Related.thins (.refl Track.SamePlace.refl s.table) rfl⟩)
        (fun law => State.settle_countLaw law _) fun d owned embeds => ?_
      rw [State.embeds_of_tx (s := s.setTx l { s.tx.get l with staged := some setting }) (State.tableOnly_settle ..).tx]
      cases d with
      | console n => rfl
      | lane k g c =>
        by_cases same : l = k
        · subst same
          obtain ⟨force, -⟩ := Bool.and_eq_true_iff.1 embeds
          have stays := State.embed_of_not_groupInUse (Bool.eq_false_iff.2 accepted) owned (of_decide_eq_true force)
          rw [State.embeds, State.setTx_tx, Bank.get_set_self]
          exact Bool.and_eq_true_iff.2 ⟨force, decide_eq_true stays⟩
        · rw [State.embeds, State.setTx_tx, Bank.get_set_ne _ _ same]
          exact embeds

/-! ### RESTART, PURGE and the reset line (R72, R180) -/

/-- An empty table keeps every law of tables. -/
theorem Table.sound_of_empty {tab : Table} (slots : tab.slots = Bank.fill 256 none) (map : tab.map = Bank.fill 192 none) :
    tab.Sound := by
  have none (i : Fin 256) (t : Track) : ¬tab.holds i t := by simp [Table.holds, slots]
  refine ⟨fun i t held => absurd held (none i t), ⟨fun i t held => absurd held (none i t),
    fun i j t u held => absurd held (none i t)⟩, fun d label => ?_⟩
  simp [Table.ownerOf, map, none]

/-- With no record the staged items are the lanes' staged settings. -/
theorem State.keepsTable_emptied {s t : State} (slots : t.table.slots = Bank.fill 256 none)
    (map : t.table.map = Bank.fill 192 none) (occupancy : t.table.occupancy = 0) (staged : t.table.staged = t.stagedLanes) :
    s.KeepsTable t := by
  have cells (o : Option Track) (mem : o ∈ t.table.slots.cells) : o = none := by
    rw [slots] at mem
    exact List.eq_of_mem_replicate mem
  refine ⟨fun _ => ⟨Table.sound_of_empty slots map, fun _ => ⟨?_, ?_⟩, fun _ i u held => ?_⟩⟩
  · rw [occupancy, Table.records, List.countP_eq_zero.2 fun o mem => by simp [cells o mem]]
  · rw [staged, State.stagedItems, List.sum_eq_zero fun n mem => ?_, Nat.zero_add]
    obtain ⟨o, here, rfl⟩ := List.mem_map.1 mem
    rw [cells o here]
    rfl
  · simp [Table.holds, slots] at held

theorem State.stagedLanes_eq_zero {s : State} (h : ∀ l, (s.tx.get l).staged = none) : s.stagedLanes = 0 := by
  rw [State.stagedLanes, List.countP_eq_zero]
  intro x mem
  obtain ⟨l, rfl⟩ := Bank.mem_cells.1 mem
  simp [h l]

theorem State.keepsTable_doRestart (s : State) : s.KeepsTable s.doRestart := by
  refine State.keepsTable_emptied (by rw [s.doRestart_table]; rfl) (by rw [s.doRestart_table]; rfl)
    (by rw [s.doRestart_table]; rfl) ?_
  rw [s.doRestart_table, State.stagedLanes_eq_zero fun l => ?_]
  · rfl
  · rw [show s.doRestart.tx = s.finishLines.tx.map LaneTx.restart from rfl, Bank.get_map]
    rfl

theorem State.keepsTable_doPurge (s : State) : s.KeepsTable s.doPurge := by
  unfold State.doPurge
  generalize s.finishLines = u
  exact State.keepsTable_emptied rfl rfl rfl rfl

theorem State.keepsTable_reset (s : State) : s.KeepsTable { State.reset with pending := s.pending } := by
  refine State.keepsTable_emptied rfl rfl rfl (State.stagedLanes_eq_zero fun l => ?_).symm
  rw [show ({ State.reset with pending := s.pending } : State).tx = Bank.fill 8 LaneTx.reset from rfl, Bank.get_fill]
  rfl

/-! ### Every command, every step -/

theorem State.keepsTable_perform (s : State) (c : Command) (params : List Byte) : s.KeepsTable (s.perform c params) := by
  have settings (g : GainStage) (a : Attention) : s.KeepsTable { s with gain := g, attn := a } :=
    State.keepsTable_of_eq rfl rfl
  cases c with
  | identify | referenceQuery => exact s.keepsTable_answer ..
  | align => exact (s.keepsTable_withRef _).trans (State.keepsTable_answer ..)
  | restart => exact s.keepsTable_doRestart
  | admitTrack => exact s.keepsTable_doAdmit params
  | amend => exact s.keepsTable_doAmend params
  | attach => exact s.keepsTable_doAttach params
  | detach => exact s.keepsTable_doDetach params
  | retire => exact s.keepsTable_doRetire params
  | guard => exact s.keepsTable_doGuard params
  | purge => exact s.keepsTable_doPurge
  | lane => exact s.keepsTable_doLane params
  | find | owner | survey | laneQuery =>
    simp only [State.perform, State.doFind, State.doOwner, State.doSurvey, State.doLaneQuery]
    repeat' split
    all_goals exact s.keepsTable_answer ..
  | setup =>
    simp only [State.perform, State.doSetup]
    split
    · exact s.keepsTable_refuse ..
    · exact (settings _ _).trans (State.keepsTable_answer ..)
  | attend =>
    simp only [State.perform, State.doAttend]
    split
    · exact s.keepsTable_refuse ..
    · exact (settings _ _).trans (State.keepsTable_answer ..)
  | reference =>
    simp only [State.perform, State.doReference]
    split
    · exact s.keepsTable_refuse ..
    · exact (s.keepsTable_setReference ..).trans (State.keepsTable_answer ..)

theorem State.keepsTable_judgeFrame (s : State) (frame : List Byte) : s.KeepsTable (s.judgeFrame frame) := by
  unfold State.judgeFrame
  split
  · exact .refl s
  · exact s.keepsTable_refuseFrame ..
  · split
    · unfold State.executeFrame
      split
      · exact s.keepsTable_refuseFrame ..
      · exact s.keepsTable_perform ..
    · exact s.keepsTable_refuseFrame ..

theorem State.keepsTable_running {s t : State} {event : State → State} (h : s.KeepsTable (event s))
    (ht : s.running event = .next t) : s.KeepsTable t := by
  unfold State.running at ht
  split at ht
  · cases ht; exact .refl s
  · cases ht; exact h

theorem State.keepsTable_row {s t : State} (c : Command) (params : List Byte) (ht : exec (c.row params) s = .next t) :
    s.KeepsTable t := by
  rw [exec_row] at ht
  refine State.keepsTable_running ?_ ht
  unfold State.wholeFrame
  split
  · exact s.keepsTable_closePort.trans (State.keepsTable_refuse ..)
  · exact s.keepsTable_closePort.trans (State.keepsTable_perform ..)

theorem exec_keepsTable {s t : State} (c : Instr) (ht : exec c s = .next t) : s.KeepsTable t := by
  have port (p : Port) : s.KeepsTable { s with port := p } := State.keepsTable_of_eq rfl rfl
  cases c with
  | resetAsserted => cases ht; exact State.keepsTable_of_eq rfl rfl
  | resetReleased => cases ht; exact s.keepsTable_reset
  | selectAsserted => exact State.keepsTable_running (event := fun s => { s with port := s.port.open }) (port _) ht
  | selectReleased after bits =>
    dsimp only [exec, execSelectReleased] at ht
    refine State.keepsTable_running ?_ ht
    split
    · exact (s.keepsTable_elapse _).trans ((State.keepsTable_closePort _).trans (State.keepsTable_judgeFrame ..))
    · exact s.keepsTable_elapse _
  | portByteShifted bits =>
    dsimp only [exec, execPortByteShifted] at ht
    refine State.keepsTable_running ?_ ht
    split
    · exact port _
    · exact .refl s
  | identify params => exact State.keepsTable_row .identify params ht
  | restart params => exact State.keepsTable_row .restart params ht
  | setup params => exact State.keepsTable_row .setup params ht
  | attend params => exact State.keepsTable_row .attend params ht
  | admitTrack params => exact State.keepsTable_row .admitTrack params ht
  | find params => exact State.keepsTable_row .find params ht
  | owner params => exact State.keepsTable_row .owner params ht
  | amend params => exact State.keepsTable_row .amend params ht
  | attach params => exact State.keepsTable_row .attach params ht
  | detach params => exact State.keepsTable_row .detach params ht
  | retire params => exact State.keepsTable_row .retire params ht
  | guard params => exact State.keepsTable_row .guard params ht
  | survey params => exact State.keepsTable_row .survey params ht
  | purge params => exact State.keepsTable_row .purge params ht
  | lane params => exact State.keepsTable_row .lane params ht
  | laneQuery params => exact State.keepsTable_row .laneQuery params ht
  | reference params => exact State.keepsTable_row .reference params ht
  | referenceQuery params => exact State.keepsTable_row .referenceQuery params ht
  | align params => exact State.keepsTable_row .align params ht
  | houseSwitchLine lines after =>
    dsimp only [exec, execHouseSwitchLine] at ht
    refine State.keepsTable_running ?_ ht
    split
    · exact (s.keepsTable_elapse _).trans ((State.keepsTable_sourceSwitchLine ..).trans
        (State.keepsTable_reportReference ..))
    · exact s.keepsTable_elapse _
  | houseLost =>
    dsimp only [exec, execHouseLost] at ht
    refine State.keepsTable_running ?_ ht
    split
    · exact (s.keepsTable_reach _).trans ((State.keepsTable_sourceLoss _).trans (State.keepsTable_reportReference ..))
    · exact .refl s
  | referenceFrameStart =>
    dsimp only [exec, execReferenceFrameStart] at ht
    refine State.keepsTable_running ?_ ht
    split
    · exact .refl s
    · exact (s.keepsTable_reach _).trans ((State.keepsTable_beginReferenceFrame _).trans
        (State.keepsTable_reportReference ..))
  | referenceSampleInstant early =>
    dsimp only [exec, execReferenceSampleInstant] at ht
    refine State.keepsTable_running ?_ ht
    split
    · exact s.keepsTable_workInstant early
    · split
      · exact s.keepsTable_emitInstant.trans (State.keepsTable_workInstant _ early)
      · exact .refl s
  | rampReachesTarget label =>
    dsimp only [exec, execRampReachesTarget] at ht
    refine State.keepsTable_running ?_ ht
    split
    · exact .refl s
    · next i u found =>
      split
      · exact State.keepsTable_put (Table.lookup_eq_some found).1 u.samePlace_stepRamp (by rw [Track.stepRamp_eq]; rfl)
      · exact .refl s
  | consoleFrameTaken bytes =>
    dsimp only [exec, execConsoleFrameTaken] at ht
    exact State.keepsTable_running (s.keepsTable_takeConsoleFrame bytes) ht
  | laneSwitchLine l lines after =>
    dsimp only [exec, execLaneSwitchLine] at ht
    exact State.keepsTable_running ((s.keepsTable_elapse _).trans ((State.keepsTable_laneSwitchLine _ l lines).trans
      (State.keepsTable_reportReference ..))) ht
  | laneFeedLost l =>
    dsimp only [exec, execLaneFeedLost] at ht
    refine State.keepsTable_running ?_ ht
    split
    · exact .refl s
    · exact (s.keepsTable_reach _).trans ((State.keepsTable_laneLoss _ l).trans (State.keepsTable_reportReference ..))
  | packetTaken l line bytes =>
    dsimp only [exec, execPacketTaken] at ht
    refine State.keepsTable_running ?_ ht
    split
    · exact s.keepsTable_takePacket ..
    · exact .refl s
  | packetCutOff l line bytes =>
    dsimp only [exec, execPacketCutOff] at ht
    refine State.keepsTable_running ?_ ht
    split
    · exact s.keepsTable_setRx ..
    · exact .refl s
  | countFieldDamaged l line bytes =>
    dsimp only [exec, execCountFieldDamaged] at ht
    refine State.keepsTable_running ?_ ht
    split
    · exact s.keepsTable_setRx ..
    · exact .refl s
  | outgoingFrameStart l =>
    dsimp only [exec, execOutgoingFrameStart] at ht
    exact State.keepsTable_running (s.keepsTable_handedFrameStart l) ht
  | lineReached l line =>
    dsimp only [exec, execLineReached] at ht
    refine State.keepsTable_running ?_ ht
    split
    · exact s.keepsTable_goOnLine ..
    · split
      · exact s.keepsTable_reachLine ..
      · exact s.keepsTable_reachFallbackLine ..
  | flatLineReached l line =>
    dsimp only [exec, execFlatLineReached] at ht
    refine State.keepsTable_running ?_ ht
    split
    · split
      · exact s.keepsTable_goOnLine ..
      · exact s.keepsTable_reachLine ..
    · exact .refl s

theorem step_keepsTable {s t : State} (stepped : step s = .next t) : s.KeepsTable t := by
  unfold step at stepped
  split at stepped
  · cases stepped
    exact .refl s
  · next rest _ =>
    have queue : s.KeepsTable { s with pending := rest } := State.keepsTable_of_eq rfl rfl
    exact queue.trans (exec_keepsTable _ stepped)

/-- Settles O57: each operation only shortens lists and releases what it takes out, or claims destinations without owner. -/
theorem stepsKeepTheTableSound : Obligations.StepsKeepTheTableSound :=
  fun _ _ sound stepped => ((step_keepsTable stepped).laws sound).1

/-- Settles O59: an event that adds or removes items is settled, and a group that ceases to be EMBED has no owned channel. -/
theorem stepsKeepCountsAndEmbedding : Obligations.StepsKeepCountsAndEmbedding :=
  fun _ _ sound stepped => ((step_keepsTable stepped).laws sound).2

end Sys2Proof.Machine
end

section
/-! The table read and moved: the destination map (R63), sets and lookup (R55, R56, R58), a draw (R103 to R106), and the
console's switch point (R80, R81). -/

namespace Sys2Proof.Machine

/-- Settles O20: destinations have different places, so an update of some reads back at these and nowhere else. -/
theorem mapReadsBack : Obligations.MapReadsBack :=
  ⟨fun _ _ same => Dest.index_injective same, Table.ownerOf_claim, Table.ownerOf_release⟩

/-! ### Sets (R55) -/

theorem setIndex_lt {label : Nat} (h : label ≤ 65535) : setIndex label < 64 := by
  refine Nat.xor_lt_two_pow (n := 6) (Nat.xor_lt_two_pow (n := 6) ?_ ?_) ?_ <;> omega

theorem setOfLabel_val {label : Nat} (h : label ≤ 65535) : (setOfLabel label).1 = setIndex label :=
  Nat.mod_eq_of_lt (setIndex_lt h)

/-- Within 64 labels from a multiple of 64 only the low part of the set index changes. -/
theorem setIndex_block (a : Nat) {b : Nat} (h : b < 64) : setIndex (64 * a + b) = (b ^^^ (a % 64)) ^^^ (a / 64) := by
  have low : (64 * a + b) % 64 = b := by omega
  have middle : (64 * a + b) / 64 = a := by omega
  have high : (64 * a + b) / 4096 = a / 64 := by omega
  rw [setIndex, low, middle, high]

/-! ### Ways and lookup (R56, R58) -/

/-- In an ascending list the first place that `p` holds of is the lowest one. -/
theorem find?_eq_some_iff_lowest {n : Nat} {p : Fin n → Bool} {xs : List (Fin n)} (ascending : xs.Pairwise (· < ·))
    {i : Fin n} : xs.find? p = some i ↔ i ∈ xs ∧ p i = true ∧ ∀ j ∈ xs, j < i → p j = false := by
  induction xs with
  | nil => simp
  | cons x xs ih =>
    obtain ⟨first, ascending⟩ := List.pairwise_cons.1 ascending
    cases here : p x with
    | true =>
      rw [List.find?_cons_of_pos here]
      constructor
      · rintro ⟨⟩
        refine ⟨List.mem_cons_self, here, fun j mem below => ?_⟩
        rcases List.mem_cons.1 mem with rfl | mem
        · exact absurd below (lt_irrefl _)
        · exact absurd below (lt_asymm (first j mem))
      · rintro ⟨mem, -, lowest⟩
        rcases List.mem_cons.1 mem with rfl | mem
        · rfl
        · rw [lowest x List.mem_cons_self (first i mem)] at here
          cases here
    | false =>
      rw [List.find?_cons_of_neg (by simp [here]), ih ascending]
      constructor
      · rintro ⟨mem, holds, lowest⟩
        exact ⟨List.mem_cons_of_mem x mem, holds, List.forall_mem_cons.2 ⟨fun _ => here, lowest⟩⟩
      · rintro ⟨mem, holds, lowest⟩
        have later : i ≠ x := by
          rintro rfl
          rw [here] at holds
          cases holds
        exact ⟨List.mem_of_ne_of_mem later mem, holds, (List.forall_mem_cons.1 lowest).2⟩

theorem waysOf_ascending (label : Nat) : (waysOf label).Pairwise (· < ·) := by
  simp [waysOf, slotOf]

/-- The way that an admission takes is the lowest empty one of the label's set (R56). -/
theorem Table.emptyWay_iff (tab : Table) (label : Nat) (i : Fin 256) : tab.emptyWay label = some i ↔
    i ∈ waysOf label ∧ tab.slots.get i = none ∧ ∀ j ∈ waysOf label, j < i → (tab.slots.get j).isSome := by
  rw [Table.emptyWay, find?_eq_some_iff_lowest (waysOf_ascending label)]
  simp

theorem Table.emptyWay_eq_none_iff (tab : Table) (label : Nat) :
    tab.emptyWay label = none ↔ tab.waysOccupied label = 4 := by
  rw [Table.emptyWay, List.find?_eq_none, Table.waysOccupied, ← show (waysOf label).length = 4 from rfl,
    List.countP_eq_length]
  refine forall₂_congr fun i _ => ?_
  cases tab.slots.get i <;> simp

/-- Settles O21: the low part of the set index cancels in the exclusive or, and the placement law makes the record found
the only one of its label. -/
theorem lookupFindsTheRecord : Obligations.LookupFindsTheRecord := by
  refine ⟨fun l h => ⟨setOfLabel_val h, (setOfLabel_val h).symm⟩, fun a b c hb hc last same => ?spread,
    fun tab label law => ⟨fun i t => ⟨fun found => ?found, ?finds⟩, tab.emptyWay_iff label,
      tab.emptyWay_eq_none_iff label⟩⟩
  case spread =>
    have sets := congrArg Fin.val same
    rw [setOfLabel_val (by omega), setOfLabel_val (by omega), setIndex_block a hb, setIndex_block a hc] at sets
    exact Nat.xor_left_inj.1 (Nat.xor_left_inj.1 sets)
  case found =>
    obtain ⟨held, named, -⟩ := Table.lookup_eq_some found
    exact ⟨held, named⟩
  case finds =>
    rintro ⟨held, rfl⟩
    exact law.lookup held

/-! ### A draw (R103 to R106) -/

/-- Silence stays silence under every rounding mode. -/
theorem Rounding.divide_zero (mode : Rounding) {d : Int} (positive : 0 < d) : mode.divide 0 d = 0 := by
  cases mode <;> simp [Rounding.divide, positive]

theorem scaleSample_zero (inverted : Bool) (gain : Nat) (mode : Rounding) (w : WordLength) :
    scaleSample inverted gain mode w 0 = 0 := by
  have silent : invertSample inverted 0 = 0 := by cases inverted <;> decide
  have positive : 0 < w.divisor := by cases w <;> decide
  rw [scaleSample, silent, Int.zero_mul, mode.divide_zero positive]

/-- Silence is handed on as 0 and is not limited (R105, R131). -/
theorem Track.shape_zero (t : Track) (device : Rounding) (w : WordLength) :
    t.shape device w 0 = 0 ∧ t.clips device w 0 = false := by
  have zero : t.shape device w 0 = 0 := by
    rw [Track.shape, scaleSample_zero]
    cases w <;> decide
  refine ⟨zero, ?_⟩
  rw [Track.clips, zero, scaleSample_zero]
  rfl

/-- A list with one entry for a destination, changed there. -/
theorem Track.modifyEntry_of_entry {t : Track} (distinct : (t.entries.map (·.dest)).Nodup) {d : Dest} {e : Entry}
    (entry : t.entryFor d = some e) (f : Entry → Entry) :
    t.modifyEntry d f = { t with entries := t.entries.map fun g => if g.dest = d then f e else g } := by
  obtain ⟨mem, rfl⟩ := Track.entryFor_eq_some entry
  rw [Track.modifyEntry]
  congr 1
  refine List.map_congr_left fun g hg => ?_
  split
  · next same => rw [List.inj_on_of_nodup_map distinct hg mem same]
  · rfl

/-- What a draw makes of the part, `f` being the entry as the draw leaves it and `x` the sample shaped. -/
theorem State.draw_entry {s : State} {d : Dest} {i : Fin 256} {t : Track} {e f : Entry} {x : Sample} {slips : Bool}
    (owns : s.table.owning d = some (i, t, e)) (distinct : (t.entries.map (·.dest)).Nodup) (w : WordLength)
    (drawn : t.drawn (s.sampleAt (t.effective e)) e = x) (after : t.entryDrawn (s.sampleAt (t.effective e)) e = f)
    (slip : t.slipsOnDraw e = slips) : s.draw d w = (t.shape s.gain.rounding w x,
      { s with
        table := { s.table with slots := s.table.slots.set i (some { t with
          slipped := t.slipped || slips, clipped := t.clipped || t.clips s.gain.rounding w x
          entries := t.entries.map fun g => if g.dest = d then f else g }) }
        attn := s.attn.reportIf slips .slip }) := by
  subst drawn after slip
  obtain ⟨-, -, entry⟩ := Table.owning_eq_some owns
  rw [State.draw, owns]
  dsimp only
  rw [Track.modifyEntry_of_entry distinct entry]
  rfl

/-- Settles O41: by whether the entry keeps lag, and whether its lag is 0. -/
theorem drawTakesTheOldestUndrawn : Obligations.DrawTakesTheOldestUndrawn := by
  refine fun s d w => ⟨fun ownerless => State.draw_ownerless ownerless w, fun i t e owns distinct => ?_⟩
  refine ⟨fun keeps lag => ?window, fun keeps lag => ?again, fun keeps => ?silent⟩
  case window =>
    rw [State.draw_entry owns distinct w (x := s.sampleAt (t.effective e) e.lag) (slips := false)
      (f := { e with last := s.sampleAt (t.effective e) e.lag, lag := e.lag - 1 }) (by simp [Track.drawn, keeps, lag])
      (by simp [Track.entryDrawn, keeps, lag]) (by simp [Track.slipsOnDraw, keeps, lag])]
    rfl
  case again =>
    rw [State.draw_entry owns distinct w (x := e.last) (f := e) (slips := true) (by simp [Track.drawn, keeps, lag])
      (by simp [Track.entryDrawn, keeps, lag]) (by simp [Track.slipsOnDraw, keeps, lag])]
    rfl
  case silent =>
    obtain ⟨zero, unclipped⟩ := t.shape_zero s.gain.rounding w
    rw [State.draw_entry owns distinct w (x := 0) (f := e) (slips := false) (by simp [Track.drawn, keeps])
      (by simp [Track.entryDrawn, keeps]) (by simp [Track.slipsOnDraw, keeps]), zero, unclipped]
    rfl

/-! ### The console's switch point (R80, R81) -/

/-- Settles O45: the switch point is one settled event that lands every record and releases what LEAVING entries leave. -/
theorem tableAtASwitchPoint : Obligations.TableAtASwitchPoint := by
  intro s
  have owner (d : Dest) : s.consoleSwitchPoint.table.ownerOf d =
      if d ∈ s.leftAt Dest.onConsole then none else s.table.ownerOf d := s.ownerOf_landTable Dest.onConsole d
  refine ⟨s.tableOnly_consoleSwitchPoint.1, fun i => Bank.get_map .., fun d left => ?left, fun d stays => ?stays, rfl, rfl,
    fun law => State.settle_countLaw law _, State.settle_reports s (s.landTable Dest.onConsole)⟩
  case left => rw [owner, if_pos ((s.mem_leftAt _ d).2 left)]
  case stays =>
    rw [owner, if_neg]
    intro left
    obtain ⟨i, u, held, e, mem, same, console, leaving⟩ := (s.mem_leftAt _ d).1 left
    rw [stays i u held e mem same console] at leaving
    cases leaving

end Sys2Proof.Machine
end

section
/-! The checks of commands in their order (spec 04, 05 and 10): lengths and fields of frames, then the state and the resource
codes of ADMIT, GUARD, AMEND, ATTACH, DETACH and RETIRE. -/

namespace Sys2Proof.Machine

/-! ### A row by what its command answers (R169, R175) -/

section
variable {s : State} {params : List Byte} (takes : s.takes params) {c : Command} {r : Result}
include takes

/-- A command that only answers holds its reply and ends the transaction. -/
theorem exec_row_answers {data : List Byte} (h : s.closePort.perform c params = s.closePort.answer c r data) :
    exec (c.row params) s = .next (s.replied c r data) := by
  rw [exec_row_takes takes, h]
  rfl

theorem exec_row_refuses (h : s.closePort.perform c params = s.closePort.refuse c r) :
    exec (c.row params) s = .next (s.replied c r []) := exec_row_answers takes h
end

/-! ### Lengths and field ranges (R172, R173, R175) -/

/-- A row that would announce more than 60 parameter bytes is truncated (R173; log 12). -/
theorem exec_row_truncated {s : State} {params : List Byte} (released : s.resetHeld = false) (long : 60 < params.length)
    (c : Command) : exec (c.row params) s = .next (s.replied c .truncated []) := by
  have exceeds : Config.maxParams < params.length := long
  rw [exec_row, State.running_released released, State.wholeFrame, if_pos exceeds]
  rfl

/-- Whether a command finds its parameters short or out of range (R172). -/
def Command.unread (c : Command) (params : List Byte) : Bool :=
  match c with
  | .setup => (readSetup params).isNone
  | .attend => (readAttend params).isNone
  | .admitTrack => (readAdmit params).isNone
  | .find | .retire => (readLabelOnly params).isNone
  | .owner => (readOwner params).isNone
  | .amend => (readAmend params).isNone
  | .attach | .detach => (readAttach params).isNone
  | .guard => (readGuard params).isNone
  | .survey => (readSurvey params).isNone
  | .lane => (readLane params).isNone
  | .laneQuery => (readLaneQuery params).isNone
  | .reference => (readReference params).isNone
  | .identify | .restart | .purge | .referenceQuery | .align => false

/-- Parameters that a command cannot read are refused BAD_FIELD before anything else is examined. -/
theorem State.perform_unread {c : Command} {params : List Byte} (h : c.unread params = true) (s : State) :
    s.perform c params = s.refuse c .badField := by
  cases c with
  | identify | restart | purge | referenceQuery | align => cases h
  | setup => simp only [State.perform, State.doSetup, Option.isNone_iff_eq_none.1 h]
  | attend => simp only [State.perform, State.doAttend, Option.isNone_iff_eq_none.1 h]
  | admitTrack => simp only [State.perform, State.doAdmit, Option.isNone_iff_eq_none.1 h]
  | find => simp only [State.perform, State.doFind, Option.isNone_iff_eq_none.1 h]
  | retire => simp only [State.perform, State.doRetire, Option.isNone_iff_eq_none.1 h]
  | owner => simp only [State.perform, State.doOwner, Option.isNone_iff_eq_none.1 h]
  | amend => simp only [State.perform, State.doAmend, Option.isNone_iff_eq_none.1 h]
  | attach => simp only [State.perform, State.doAttach, Option.isNone_iff_eq_none.1 h]
  | detach => simp only [State.perform, State.doDetach, Option.isNone_iff_eq_none.1 h]
  | guard => simp only [State.perform, State.doGuard, Option.isNone_iff_eq_none.1 h]
  | survey => simp only [State.perform, State.doSurvey, Option.isNone_iff_eq_none.1 h]
  | lane => simp only [State.perform, State.doLane, Option.isNone_iff_eq_none.1 h]
  | laneQuery => simp only [State.perform, State.doLaneQuery, Option.isNone_iff_eq_none.1 h]
  | reference => simp only [State.perform, State.doReference, Option.isNone_iff_eq_none.1 h]

theorem exec_row_unread {s : State} {params : List Byte} (takes : s.takes params) {c : Command}
    (h : c.unread params = true) : exec (c.row params) s = .next (s.replied c .badField []) :=
  exec_row_refuses takes (State.perform_unread h _)

/-- The fewest bytes that a command's fields take (spec 12 section 12.2). -/
def Command.leastParams : Command → Nat
  | .setup | .survey => 7
  | .attend | .laneQuery => 1
  | .admitTrack => 12
  | .find | .retire => 2
  | .owner => 4
  | .amend | .guard | .reference => 3
  | .attach | .detach => 6
  | .lane => 9
  | .identify | .restart | .purge | .referenceQuery | .align => 0

theorem Command.leastParams_le (c : Command) : c.leastParams ≤ 12 := by cases c <;> decide

/-- Fewer bytes than its fields take leave a command's parameters unread. -/
theorem Command.unread_of_short {c : Command} {params : List Byte} (short : params.length < c.leastParams) :
    c.unread params = true := by
  cases c with
  | identify | restart | purge | referenceQuery | align => cases short
  | setup | attend | admitTrack | find | retire | owner | amend | attach | detach | guard | survey | lane | laneQuery
    | reference =>
    simp only [Command.unread, readSetup, readAttend, readAdmit, readLabelOnly, readOwner, readAmend, readAttach,
      readGuard, readSurvey, readLane, readLaneQuery, readReference]
    split
    · simp only [List.length_cons, Command.leastParams] at short
      omega
    · rfl

/-- A command without fields is done whatever bytes follow its code (R172). -/
theorem State.perform_done {c : Command} (h : c ∈ [Command.identify, .restart, .purge, .referenceQuery, .align])
    (s : State) (params : List Byte) : (s.perform c params).port.held.result = .done := by
  cases c with
  | identify | referenceQuery | align => rfl
  | restart =>
    rw [State.perform, State.doRestart]
    rfl
  | purge =>
    rw [State.perform, State.doPurge]
    rfl
  | _ => simp at h

/-- Settles O12: length, then fields, each before anything else of the command is examined. -/
theorem framesAreCheckedForLengthAndFields : Obligations.FramesAreCheckedForLengthAndFields := by
  refine ⟨fun c params s released long => exec_row_truncated released long c,
    fun c need params s known released short => ?short, fun c params s t known takes ran => ?done,
    fun params s takes => ?fields⟩
  case short =>
    have least : ∀ entry ∈ [(Command.setup, 7), (.attend, 1), (.admitTrack, 12), (.find, 2), (.owner, 4), (.amend, 3),
        (.attach, 6), (.detach, 6), (.retire, 2), (.guard, 3), (.survey, 7), (.lane, 9), (.laneQuery, 1),
        (.reference, 3)], entry.2 = entry.1.leastParams := by decide
    obtain rfl : need = c.leastParams := least _ known
    have few := c.leastParams_le
    exact exec_row_unread ⟨released, by omega⟩ (Command.unread_of_short short)
  case done =>
    rw [exec_row_takes takes] at ran
    cases ran
    exact State.perform_done known s.closePort params
  case fields =>
    have refused (c : Command) (h : c.unread params = true) := exec_row_unread takes h
    exact ⟨fun none => refused .setup (by simp [Command.unread, none]),
      fun none => refused .attend (by simp [Command.unread, none]),
      fun none => refused .admitTrack (by simp [Command.unread, none]),
      fun none => ⟨refused .find (by simp [Command.unread, none]), refused .retire (by simp [Command.unread, none])⟩,
      fun none => refused .owner (by simp [Command.unread, none]),
      fun none => refused .amend (by simp [Command.unread, none]),
      fun none => ⟨refused .attach (by simp [Command.unread, none]), refused .detach (by simp [Command.unread, none])⟩,
      fun none => refused .guard (by simp [Command.unread, none]),
      fun none => refused .survey (by simp [Command.unread, none]),
      fun none => refused .lane (by simp [Command.unread, none]),
      fun none => refused .reference (by simp [Command.unread, none])⟩

/-! ### ADMIT (R60) -/

@[simp] theorem State.embeds_closePort (s : State) (d : Dest) : s.closePort.embeds d = s.embeds d :=
  State.embeds_of_tx rfl d

section
variable {s : State} {params : List Byte} {r : AdmitRequest} (read : readAdmit params = some r)
include read

theorem State.doAdmit_duplicate (known : (s.table.lookup r.label).isSome) :
    s.doAdmit params = s.refuse .admitTrack .duplicate := by simp [State.doAdmit, read, known]

variable (unknown : s.table.lookup r.label = none)
include unknown

theorem State.doAdmit_setFull (full : s.table.emptyWay r.label = none) :
    s.doAdmit params = s.answer .admitTrack .setFull [byteOf (setIndex r.label)] := by
  simp [State.doAdmit, read, unknown, full]

theorem State.doAdmit_occupied (way : (s.table.emptyWay r.label).isSome)
    (owned : ∃ d ∈ r.dests, (s.table.ownerOf d).isSome) : s.doAdmit params = s.refuse .admitTrack .occupied := by
  obtain ⟨i, way⟩ := Option.isSome_iff_exists.1 way
  have owned : (r.dests.any fun d => (s.table.ownerOf d).isSome) = true := List.any_eq_true.2 owned
  simp [State.doAdmit, read, unknown, way, owned]

variable (free : ∀ d ∈ r.dests, s.table.ownerOf d = none)
include free

theorem State.doAdmit_notEmbedding (way : (s.table.emptyWay r.label).isSome)
    (apart : ∃ d ∈ r.dests, s.embeds d = false) : s.doAdmit params = s.refuse .admitTrack .notEmbedding := by
  obtain ⟨i, way⟩ := Option.isSome_iff_exists.1 way
  have free : (r.dests.any fun d => (s.table.ownerOf d).isSome) = false :=
    List.any_eq_false.2 fun d mem => by simp [free d mem]
  have apart : (r.dests.any fun d => !s.embeds d) = true := by simpa using apart
  simp [State.doAdmit, read, unknown, way, free, apart]

theorem State.doAdmit_accepted {i : Fin 256} (way : s.table.emptyWay r.label = some i)
    (embeds : ∀ d ∈ r.dests, s.embeds d = true) : s.doAdmit params = (State.settle s { s with
      table := (s.table.put i (some (r.track s.view s.gain.rampLength))).claim r.dests r.label }).answer
        .admitTrack .done [byteOf i] := by
  have free : (r.dests.any fun d => (s.table.ownerOf d).isSome) = false :=
    List.any_eq_false.2 fun d mem => by simp [free d mem]
  have embeds : (r.dests.any fun d => !s.embeds d) = false := List.any_eq_false.2 fun d mem => by simp [embeds d mem]
  simp [State.doAdmit, read, unknown, way, free, embeds]
end

/-- Settles O23: each check is made only where those before it pass. -/
theorem admitRefusalsInOrder : Obligations.AdmitRefusalsInOrder := by
  refine ⟨fun s params r takes read => ⟨fun known => ?_, fun unknown full => ?_, fun unknown way owned => ?_,
    fun unknown way free apart => ?_⟩, fun s n => rfl, fun s l g c => ?_⟩
  · exact exec_row_refuses takes (c := .admitTrack) (State.doAdmit_duplicate (s := s.closePort) read known)
  · exact exec_row_answers takes (c := .admitTrack) (State.doAdmit_setFull (s := s.closePort) read unknown full)
  · exact exec_row_refuses takes (c := .admitTrack) (State.doAdmit_occupied (s := s.closePort) read unknown way owned)
  · exact exec_row_refuses takes (c := .admitTrack)
      (State.doAdmit_notEmbedding (s := s.closePort) read unknown free way (by simpa using apart))
  · rw [State.embeds, Bool.and_eq_true, decide_eq_true_eq, Option.all_eq_true]
    simp

/-! ### Commands on one track (R71, R86, R87, R90, R93) -/

section
variable {s : State} {params : List Byte} (takes : s.takes params)
include takes

theorem exec_amend_refused {r : AmendRequest} (read : readAmend params = some r) :
    (s.table.lookup r.label = none → exec (.amend params) s = .next (s.replied .amend .noSuchTrack [])) ∧
    ∀ i t, s.table.lookup r.label = some (i, t) →
      (t.retiring = true → exec (.amend params) s = .next (s.replied .amend .retiring [])) ∧
      (t.retiring = false → t.guarded = true → exec (.amend params) s = .next (s.replied .amend .guarded [])) ∧
      (t.retiring = false → t.guarded = false → r.source.isSome → t.pendingSource.isSome →
        exec (.amend params) s = .next (s.replied .amend .pending [])) := by
  refine ⟨fun unknown => ?_, fun i t found => ⟨fun retiring => ?_, fun live guarded => ?_,
    fun live free named pending => ?_⟩⟩ <;> refine exec_row_refuses takes (c := .amend) ?_
  · simp [State.perform, State.doAmend, read, unknown]
  · simp [State.perform, State.doAmend, read, found, retiring]
  · simp [State.perform, State.doAmend, read, found, live, guarded]
  · simp [State.perform, State.doAmend, read, found, live, free, named, pending]

theorem exec_retire_refused {label : Nat} (read : readLabelOnly params = some label) :
    (s.table.lookup label = none → exec (.retire params) s = .next (s.replied .retire .noSuchTrack [])) ∧
    ∀ i t, s.table.lookup label = some (i, t) →
      (t.retiring = true → exec (.retire params) s = .next (s.replied .retire .retiring [])) ∧
      (t.retiring = false → t.guarded = true → exec (.retire params) s = .next (s.replied .retire .guarded [])) ∧
      (t.retiring = false → t.guarded = false → t.pendingSource.isSome →
        exec (.retire params) s = .next (s.replied .retire .pending [])) := by
  refine ⟨fun unknown => ?_, fun i t found => ⟨fun retiring => ?_, fun live guarded => ?_,
    fun live free pending => ?_⟩⟩ <;> refine exec_row_refuses takes (c := .retire) ?_
  · simp [State.perform, State.doRetire, read, unknown]
  · simp [State.perform, State.doRetire, read, found, retiring]
  · simp [State.perform, State.doRetire, read, found, live, guarded]
  · simp [State.perform, State.doRetire, read, found, live, free, pending]

theorem exec_guard_refused {label : Nat} {on : Bool} (read : readGuard params = some (label, on)) :
    (s.table.lookup label = none → exec (.guard params) s = .next (s.replied .guard .noSuchTrack [])) ∧
    ∀ i t, s.table.lookup label = some (i, t) → t.retiring = true →
      exec (.guard params) s = .next (s.replied .guard .retiring []) := by
  refine ⟨fun unknown => ?_, fun i t found retiring => ?_⟩ <;> refine exec_row_refuses takes (c := .guard) ?_
  · simp [State.perform, State.doGuard, read, unknown]
  · simp [State.perform, State.doGuard, read, found, retiring]

variable {label : Nat} {d : Dest} (read : readAttach params = some (label, d))
include read

theorem exec_attach_unknown (unknown : s.table.lookup label = none) :
    exec (.attach params) s = .next (s.replied .attach .noSuchTrack []) :=
  exec_row_refuses takes (c := .attach) (by simp [State.perform, State.doAttach, read, unknown])

theorem exec_detach_unknown (unknown : s.table.lookup label = none) :
    exec (.detach params) s = .next (s.replied .detach .noSuchTrack []) :=
  exec_row_refuses takes (c := .detach) (by simp [State.perform, State.doDetach, read, unknown])

variable {i : Fin 256} {t : Track} (found : s.table.lookup label = some (i, t))
include found

theorem exec_attach_retiring (retiring : t.retiring = true) :
    exec (.attach params) s = .next (s.replied .attach .retiring []) :=
  exec_row_refuses takes (c := .attach) (by simp [State.perform, State.doAttach, read, found, retiring])

theorem exec_detach_retiring (retiring : t.retiring = true) :
    exec (.detach params) s = .next (s.replied .detach .retiring []) :=
  exec_row_refuses takes (c := .detach) (by simp [State.perform, State.doDetach, read, found, retiring])

variable (live : t.retiring = false)
include live

theorem exec_detach_guarded (guarded : t.guarded = true) :
    exec (.detach params) s = .next (s.replied .detach .guarded []) :=
  exec_row_refuses takes (c := .detach) (by simp [State.perform, State.doDetach, read, found, live, guarded])

variable (absent : t.entryFor d = none)
include absent

theorem exec_detach_notAttached (free : t.guarded = false) :
    exec (.detach params) s = .next (s.replied .detach .notAttached []) :=
  exec_row_refuses takes (c := .detach) (by simp [State.perform, State.doDetach, read, found, live, free, absent])

theorem exec_attach_occupied {n : Nat} (owner : s.table.ownerOf d = some n) (other : n ≠ label) :
    exec (.attach params) s = .next (s.replied .attach .occupied []) :=
  exec_row_refuses takes (c := .attach) (by simp [State.perform, State.doAttach, read, found, live, absent, owner, other])

variable (unowned : ∀ n, s.table.ownerOf d = some n → n = label)
include unowned

omit takes read found live absent in
theorem Table.not_owned_elsewhere : (s.table.ownerOf d).any (· ≠ label) = false := by
  cases owner : s.table.ownerOf d with
  | none => rfl
  | some n => simp [unowned n owner]

theorem exec_attach_listFull (full : 8 ≤ t.entries.length) :
    exec (.attach params) s = .next (s.replied .attach .listFull []) := by
  have here := Table.not_owned_elsewhere unowned
  have full : Config.listLimit ≤ t.entries.length := full
  exact exec_row_refuses takes (c := .attach)
    (by simp only [State.perform, State.doAttach, State.closePort_table, read, found, live, absent, here, full]; rfl)

theorem exec_attach_notEmbedding (room : t.entries.length < 8) (apart : s.embeds d = false) :
    exec (.attach params) s = .next (s.replied .attach .notEmbedding []) := by
  have here := Table.not_owned_elsewhere unowned
  have room : ¬Config.listLimit ≤ t.entries.length := Nat.not_le.2 room
  exact exec_row_refuses takes (c := .attach) (by
    simp only [State.perform, State.doAttach, State.closePort_table, State.embeds_closePort, read, found, live, absent,
      here, room, apart]
    rfl)
end

/-- Settles O26: command by command, each code where the checks before it pass. -/
theorem trackCommandsRefuseInOrder : Obligations.TrackCommandsRefuseInOrder := by
  refine fun s params takes => ⟨fun r read => exec_amend_refused takes read,
    fun label read => exec_retire_refused takes read, fun label on read => exec_guard_refused takes read,
    fun label d read => ⟨fun unknown => ⟨exec_attach_unknown takes read unknown, exec_detach_unknown takes read unknown⟩,
      fun i t found => ⟨fun retiring => ⟨exec_attach_retiring takes read found retiring,
        exec_detach_retiring takes read found retiring⟩, exec_detach_guarded takes read found, fun live absent =>
        ⟨exec_detach_notAttached takes read found live absent, fun n owner other =>
          exec_attach_occupied takes read found live absent owner other, fun unowned full =>
          exec_attach_listFull takes read found live absent unowned full, fun unowned room apart =>
          exec_attach_notEmbedding takes read found live absent unowned room apart⟩⟩⟩⟩

/-- Settles O27: past its checks GUARD replaces the record by itself with the field set. -/
theorem guardSetsTheFlag : Obligations.GuardSetsTheFlag := by
  intro s params label on i t takes read found live
  have executes : s.closePort.doGuard params = { s.closePort with
      table := s.table.put i (some { t with guarded := on }) }.answer .guard .done [] := by
    simp [State.doGuard, read, found, live]
  exact (exec_row_takes takes .guard).trans (congrArg _ executes)

end Sys2Proof.Machine
end

section
/-! FIND and OWNER, and ADMIT past its checks (spec 04 sections 4.6, 4.8 and 4.9). -/

namespace Sys2Proof.Machine

/-! ### The track record as bytes (R68; spec 12 section 12.2) -/

@[simp] theorem Dest.length_bytes (d : Dest) : d.bytes.length = 4 := by cases d <;> rfl

@[simp] theorem Source.length_bytes (x : Source) : x.bytes.length = 4 := by cases x <;> rfl

/-- An entry keeps lag when it draws as ACTIVE on a source other than NONE (R100). -/
theorem Track.keepsLag_iff (t : Track) (e : Entry) : t.keepsLag e = true ↔
    (e.phase = .active ∨ e.phase = .leaving .active) ∧ t.effective e ≠ .none := by
  have manner : e.phase.manner = some .active ↔ e.phase = .active ∨ e.phase = .leaving .active := by
    cases e.phase <;> simp [Phase.manner]
  simp [Track.keepsLag, manner]

/-- An entry's ten bytes, the lag 0 where none is kept and the marker no without a pending source (R68). -/
theorem Track.entryRecord_eq (t : Track) (e : Entry) : t.entryRecord e = e.dest.bytes ++ [e.phase.code,
    if e.taken = true ∧ t.pendingSource.isSome = true then 1 else 0,
    if (e.phase = .active ∨ e.phase = .leaving .active) ∧ t.effective e ≠ .none then byteOf e.lag else 0]
    ++ sampleBytes e.last := by
  have marker : boolByte (e.taken && t.pendingSource.isSome) =
      if e.taken = true ∧ t.pendingSource.isSome = true then 1 else 0 := by
    simp only [boolByte, Bool.and_eq_true]
  have lag : byteOf (if t.keepsLag e then e.lag else 0) =
      if (e.phase = .active ∨ e.phase = .leaving .active) ∧ t.effective e ≠ .none then byteOf e.lag else 0 := by
    simp only [← t.keepsLag_iff e]
    split <;> rfl
  rw [Track.entryRecord, marker, lag]

@[simp] theorem Track.length_entryRecord (t : Track) (e : Entry) : (t.entryRecord e).length = 10 := by
  simp [Track.entryRecord, sampleBytes]

theorem Track.length_entryRecords (t : Track) (es : List Entry) : (es.flatMap t.entryRecord).length = 10 * es.length := by
  simp [List.length_flatMap, Nat.mul_comm]

/-- The record's length: 22 bytes, 4 more with a pending source, 8 with a ramp, 10 for each entry (R68). -/
theorem Track.length_record (t : Track) (i : Fin 256) : (t.record i).length =
    22 + (if t.pendingSource.isSome then 4 else 0) + (if t.ramp.isSome then 8 else 0) + 10 * t.entries.length := by
  have pending : (t.pendingSource.elim [0] fun src => 1 :: src.bytes).length =
      1 + if t.pendingSource.isSome then 4 else 0 := by cases t.pendingSource <;> simp
  have ramp : (t.ramp.elim [0] fun r => 1 :: r.record).length = 1 + if t.ramp.isSome then 8 else 0 := by
    cases t.ramp <;> rfl
  simp only [Track.record, List.length_append, pending, ramp, Track.length_entryRecords, Source.length_bytes, bytes16,
    List.length_cons, List.length_nil]
  ring

/-! ### FIND and OWNER (R68 to R70, R74) -/

theorem readLabelOnly_zero (rest : List Byte) : readLabelOnly (bytes16 0 ++ rest) = none := by
  change readLabel (byteOf (0 / 256)) (byteOf 0) = none
  decide

theorem readLabelOnly_bytes16 {label : Nat} (named : label ≠ 0) (last : label ≤ 65535) (rest : List Byte) :
    readLabelOnly (bytes16 label ++ rest) = some label := readLabel_bytes16 (Nat.pos_of_ne_zero named) last

theorem readOwner_bytes (d : Dest) (rest : List Byte) : readOwner (d.bytes ++ rest) = some d := by
  obtain ⟨k, l, g, c, laid, read⟩ := d.bytes_read
  rw [laid]
  exact read

section
variable {s : State} {params : List Byte} (takes : s.takes params)
include takes

theorem exec_find_record {label : Nat} (read : readLabelOnly params = some label) {i : Fin 256} {t : Track}
    (found : s.table.lookup label = some (i, t)) : exec (.find params) s = .next (s.replied .find .done (t.record i)) :=
  exec_row_answers takes (c := .find) (by simp [State.perform, State.doFind, read, found])

theorem exec_find_unknown {label : Nat} (read : readLabelOnly params = some label) (unknown : s.table.lookup label = none) :
    exec (.find params) s = .next
      (s.replied .find .noSuchTrack [byteOf (setIndex label), byteOf (s.table.waysOccupied label)]) :=
  exec_row_answers takes (c := .find) (by simp [State.perform, State.doFind, read, unknown])

theorem exec_owner {d : Dest} (read : readOwner params = some d) :
    exec (.owner params) s = .next (s.replied .owner .done (s.table.ownerRecord d)) :=
  exec_row_answers takes (c := .owner) (by simp [State.perform, State.doOwner, read])
end

/-- Settles O24: label and destination read back, and the record's parts each stand as 12.2 lays them out. -/
theorem findAndOwnerRead : Obligations.FindAndOwnerRead := by
  intro s label d rest last takes takes'
  refine ⟨fun none => ?none, fun i t named found => ⟨?_, ?record, t.length_record i⟩, fun named unknown => ?unknown,
    fun i t e owns => ?owned, fun unowned => ?unowned⟩
  case none =>
    subst none
    exact exec_row_unread takes (c := .find) (by simp [Command.unread, readLabelOnly_zero])
  · exact exec_find_record takes (readLabelOnly_bytes16 named last rest) found
  case record =>
    have entries : t.entries.flatMap t.entryRecord = t.entries.flatMap fun e => _ :=
      congrArg (t.entries.flatMap ·) (funext t.entryRecord_eq)
    rw [Track.record, entries]
    cases t.pendingSource <;> cases t.ramp <;> rfl
  case unknown => exact exec_find_unknown takes (readLabelOnly_bytes16 named last rest) unknown
  case owned =>
    have record : s.table.ownerRecord d = bytes16 t.label ++ [e.phase.code] := by rw [Table.ownerRecord, owns]
    rw [exec_owner takes' (readOwner_bytes d rest), record]
  case unowned =>
    have none : s.table.owning d = none := by rw [Table.owning, unowned]; rfl
    have record : s.table.ownerRecord d = [0, 0, 0] := by rw [Table.ownerRecord, none]; rfl
    rw [exec_owner takes' (readOwner_bytes d rest), record]

/-! ### One slot's event settled (R65 to R67) -/

/-- One slot's record replaced newly loses no source but its own (R160). -/
theorem Table.anyNewlyLost_put {before after : Table} {i : Fin 256} {o : Option Track}
    (slots : after.slots = before.slots.set i o) (kept : newlyLost (before.slots.get i) o = false) :
    before.anyNewlyLost after = false := by
  rw [Bool.eq_false_iff, ne_eq, Table.anyNewlyLost_iff]
  rintro ⟨j, v, u, hv, hu, stood, lost⟩
  rw [Table.holds, slots, Bank.get_set] at hu
  split at hu
  · next here =>
    subst here
    rw [show before.slots.get i = some v from hv, (newlyLost_eq_true_iff (some v) o).2 ⟨v, u, rfl, hu, stood, lost⟩] at kept
    cases kept
  · cases hv.symm.trans hu
    rw [stood] at lost
    cases lost

/-- An event that replaces one record, no source newly lost: the counts by the record's own items, then their reports. -/
theorem State.settle_put_eq (s : State) (tab : Table) (i : Fin 256) (o : Option Track)
    (slots : tab.slots = s.table.slots.set i o) (kept : newlyLost (s.table.slots.get i) o = false) {occupancy staged : Nat}
    (records : s.table.occupancy + o.isSome.toNat - (s.table.slots.get i).isSome.toNat = occupancy)
    (items : s.table.staged + slotItems o - slotItems (s.table.slots.get i) = staged) :
    State.settle s { s with table := tab } = { s with
      table := { tab with occupancy := occupancy, staged := staged }
      attn := (s.attn.reportIf (0 < s.table.staged && staged = 0) .switchesDone).reportOccupancy
        s.table.occupancy occupancy } := by
  rw [State.settle_put s tab i o slots, records, items]
  have still := Table.anyNewlyLost_put (after := { tab with occupancy := occupancy, staged := staged }) slots kept
  rw [State.reportTable, still]
  rfl

/-! ### ADMIT accepted (R56, R61, R62, R65) -/

/-- The record that ADMIT creates, its ramp toward its target (R61). -/
theorem AdmitRequest.track_eq (r : AdmitRequest) (view : SourceView) (R : Nat) :
    let lost : Bool := r.source ≠ .none && (view r.source).isNone
    let target := if r.muted || lost then 0 else r.setGain
    r.track view R = {
      label := r.label, retiring := false, guarded := false, setGain := r.setGain, muted := r.muted
      inverted := r.inverted, rounding := r.rounding, source := r.source, pendingSource := none
      sourceLost := lost
      gainNow := if R = 0 then target else 0
      ramp := if target = 0 ∨ R = 0 then none else some ⟨0, target, R, 0⟩
      slipped := false, clipped := false
      entries := r.dests.map fun d => Entry.mk d .joining false 0 0 } := by
  intro lost target
  have absent : view.absent r.source = lost := by simp [SourceView.absent, lost, bne, beq_eq_decide]
  have ramp : (if decide (0 < target) && decide (0 < R) then some (⟨0, r.setGain, R, 0⟩ : Ramp) else none) =
      if target = 0 ∨ R = 0 then none else some ⟨0, target, R, 0⟩ := by
    by_cases silent : r.muted || lost
    · simp [target, silent]
    · rcases Nat.eq_zero_or_pos r.setGain with zero | gain <;> rcases Nat.eq_zero_or_pos R with none | length
      · simp [target, silent, zero]
      · simp [target, silent, zero]
      · simp [target, silent, none]
      · simp [target, silent, gain, length, Nat.ne_of_gt gain, Nat.ne_of_gt length]
  rw [AdmitRequest.track, absent, ramp]
  rfl

/-- Every entry of a new record is a staged item (R66). -/
theorem AdmitRequest.stagedItems_track (r : AdmitRequest) (view : SourceView) (R : Nat) :
    (r.track view R).stagedItems = r.dests.length := by
  simp [Track.stagedItems, AdmitRequest.track, Entry.new, List.countP_map, Function.comp_def, Phase.isJoining]

/-- The accepted ADMIT's event: one record more, its entries staged, no source newly lost. -/
theorem State.settle_admitted {s : State} {r : AdmitRequest} {i : Fin 256} (way : s.table.emptyWay r.label = some i)
    {t : Track} (items : t.stagedItems = r.dests.length) :
    State.settle s { s with table := (s.table.put i (some t)).claim r.dests r.label } = { s with
      table := {
        slots := s.table.slots.set i (some t), map := (s.table.claim r.dests r.label).map
        occupancy := s.table.occupancy + 1, staged := s.table.staged + r.dests.length }
      attn := s.attn.reportOccupancy s.table.occupancy (s.table.occupancy + 1) } := by
  obtain ⟨vacant, -⟩ := Table.emptyWay_eq_some way
  have rises : (decide (0 < s.table.staged) && decide (s.table.staged + r.dests.length = 0)) = false := by
    simp
    omega
  rw [State.settle_put_eq s _ i (some t) rfl (by rw [vacant]; rfl) (occupancy := s.table.occupancy + 1)
    (staged := s.table.staged + r.dests.length) (by rw [vacant]; rfl)
    (by rw [vacant, slotItems, Option.elim_some, items]; rfl), rises]
  rfl

/-- Settles O22: the accepted ADMIT is one settled event on an empty slot, whose record is the one of R61 and R62. -/
theorem admitCreatesTheTrack : Obligations.AdmitCreatesTheTrack := by
  intro s params r i takes read unknown way free embeds lost target
  have accepted := State.doAdmit_accepted (s := s.closePort) read unknown free way (by simpa using embeds)
  rw [State.settle_admitted (s := s.closePort) way (r.stagedItems_track ..), AdmitRequest.track_eq] at accepted
  exact (exec_row_takes takes .admitTrack).trans (congrArg _ accepted)

end Sys2Proof.Machine
end

section
/-! RETIRE and PURGE (spec 05 section 5.7, 04 section 4.12): what leaves and what goes at once, and the lines drawn whole
before the table is emptied. -/

namespace Sys2Proof.Machine

/-! ### RETIRE (R57, R94, R95) -/

/-- Counted over a list of entries, by phase (R66, R76). -/
theorem countP_phases (es : List Entry) :
    es.countP (fun e => !e.phase.isJoining) =
      es.countP (fun e => e.phase = .filling ∨ e.phase = .active) + es.countP (fun e => e.phase.isLeaving) ∧
    es.countP (fun e => e.phase.isJoining || e.phase.isLeaving) =
      es.countP (fun e => e.phase = .joining) + es.countP (fun e => e.phase.isLeaving) := by
  induction es with
  | nil => exact ⟨rfl, rfl⟩
  | cons e es ih =>
    obtain ⟨staying, staged⟩ := ih
    simp only [List.countP_cons, staying, staged]
    cases phase : e.phase <;> simp [Phase.isJoining, Phase.isLeaving] <;> omega

/-- All that stays of a retiring track's list leaves, so all of it is staged (R66, R94). -/
theorem Track.stagedItems_retire {t : Track} (pending : t.pendingSource = none) :
    t.retire.stagedItems = t.entries.countP fun e => !e.phase.isJoining := by
  have leaves (e : Entry) : ((e.leave.phase.isJoining || e.leave.phase.isLeaving) && !e.phase.isJoining) =
      !e.phase.isJoining := by
    cases phase : e.phase <;> simp [Entry.leave, phase, Phase.isJoining, Phase.isLeaving]
  simp only [Track.stagedItems, Track.retire, pending, List.countP_map, List.countP_filter, Function.comp_def, leaves,
    Option.isSome_none, Bool.toNat_false, Nat.zero_add]

/-- Entry by entry, what a retiring track keeps of its list (R94). -/
theorem Track.retire_entries {t : Track} {f : Entry → Option Entry}
    (h : ∀ e, f e = if e.phase.isJoining then none else some e.leave) : t.retire.entries = t.entries.filterMap f := by
  rw [Track.retire, ← List.filterMap_eq_map, List.filterMap_filter]
  refine List.filterMap_congr fun e _ => ?_
  rw [h]
  cases e.phase.isJoining <;> rfl

/-- What RETIRE leaves in the slot: the record RETIRING, or nothing where its list is emptied (R94, R95). -/
def Track.retired (t : Track) : Option Track := if t.retire.entries.isEmpty then none else some t.retire

theorem Track.slotItems_retired {t : Track} (pending : t.pendingSource = none) :
    slotItems t.retired = t.entries.countP fun e => !e.phase.isJoining := by
  rw [← Track.stagedItems_retire pending, Track.retired]
  split
  · next empty =>
    rw [Track.stagedItems, List.isEmpty_iff.1 empty, show t.retire.pendingSource = none from pending]
    rfl
  · rfl

/-- Whether anything is left of a retiring track's list. -/
theorem Track.retire_isEmpty (t : Track) : t.retire.entries.isEmpty = true ↔ ∀ e ∈ t.entries, e.phase = .joining := by
  simp [Track.retire, Phase.isJoining]

theorem State.doRetire_accepted {s : State} {params : List Byte} {label : Nat} {i : Fin 256} {t : Track}
    (read : readLabelOnly params = some label) (found : s.table.lookup label = some (i, t)) (live : t.retiring = false)
    (free : t.guarded = false) (pending : t.pendingSource = none) :
    s.doRetire params = (State.settle s { s with
      table := (s.table.put i t.retired).release t.joiningDests }).answer .retire .done [] := by
  simp [State.doRetire, read, found, live, free, pending, Track.retired]

/-- The accepted RETIRE's event: the staged items change by the record's own, and no source is newly lost. -/
theorem State.settle_retired {s : State} {i : Fin 256} {t : Track} (held : s.table.holds i t)
    (pending : t.pendingSource = none) {occupancy : Nat}
    (records : s.table.occupancy + t.retired.isSome.toNat - 1 = occupancy) :
    let staged := s.table.staged + t.entries.countP (fun e => e.phase = .filling ∨ e.phase = .active)
      - t.entries.countP (fun e => e.phase = .joining)
    State.settle s { s with table := (s.table.put i t.retired).release t.joiningDests } = { s with
      table := ⟨s.table.slots.set i t.retired, (s.table.release t.joiningDests).map, occupancy, staged⟩
      attn := (s.attn.reportIf (0 < s.table.staged && staged = 0) .switchesDone).reportOccupancy
        s.table.occupancy occupancy } := by
  intro staged
  have slot : s.table.slots.get i = some t := held
  obtain ⟨staying, staged'⟩ := countP_phases t.entries
  have before : t.stagedItems = t.entries.countP fun e => e.phase.isJoining || e.phase.isLeaving := by
    rw [Track.stagedItems, pending]
    exact Nat.zero_add _
  have kept : newlyLost (some t) t.retired = false := by
    rw [Track.retired]
    split
    · rfl
    · exact Bool.and_not_self t.sourceLost
  rw [State.settle_put_eq s _ i t.retired rfl (by rw [slot, kept]) (occupancy := occupancy) (staged := staged)
    (by rw [slot]; exact records) ?items]
  · rfl
  case items =>
    rw [slot, Track.slotItems_retired pending, slotItems, Option.elim_some, before, staying, staged']
    omega

/-- Settles O30: by whether an entry is left, RETIRE puts the record back RETIRING or frees the slot, one settled event. -/
theorem retireLeavesOrFrees : Obligations.RetireLeavesOrFrees := by
  intro s params label i t takes read found live free pending staged map attn
  obtain ⟨held, -, -⟩ := Table.lookup_eq_some found
  have executes : exec (.retire params) s = _ := (exec_row_takes takes .retire).trans
    (congrArg _ (State.doRetire_accepted (s := s.closePort) read found live free pending))
  refine ⟨fun stays => ?stays, fun joining => ?freed⟩
  case stays =>
    have left : t.retired = some t.retire := by
      rw [Track.retired, if_neg]
      rw [Track.retire_isEmpty]
      simpa using stays
    rw [executes, State.settle_retired (s := s.closePort) held pending (occupancy := s.closePort.table.occupancy)
      (by rw [left]; rfl), left, Attention.reportOccupancy_same, ← t.retire_entries fun e => ?entry]
    · rfl
    case entry =>
      obtain ⟨dest, phase, taken, lag, last⟩ := e
      cases phase <;> rfl
  case freed =>
    have gone : t.retired = none := by rw [Track.retired, if_pos ((t.retire_isEmpty).2 joining)]
    rw [executes, State.settle_retired (s := s.closePort) held pending (occupancy := s.table.occupancy - 1)
      (by rw [gone]; rfl), gone]
    rfl

/-! ### PURGE (R72, R153; log 20) -/

theorem State.finishLines_withPort (s : State) (p : Port) : (s.withPort p).finishLines = s.finishLines.withPort p := by
  unfold State.finishLines
  generalize List.finRange 8 = ls
  induction ls generalizing s with
  | nil => rfl
  | cons l ls ih => rw [List.foldl_cons, State.finishLine_withPort, ih, List.foldl_cons]

/-- Lines drawn whole: of each transmitter its line and blanking, records, and requests by slips (R153). -/
def State.LinesOnly (s t : State) : Prop :=
  (∃ slips : Bool, t = { s with
    tx := t.tx, table := { s.table with slots := t.table.slots }, attn := s.attn.reportIf slips .slip }) ∧
  ∀ l, t.tx.get l = { s.tx.get l with line := (t.tx.get l).line, blanking := (t.tx.get l).blanking } ∧
    ((s.tx.get l).line = none → (t.tx.get l).line = none)

theorem State.LinesOnly.refl (s : State) : s.LinesOnly s := ⟨⟨false, rfl⟩, fun _ => ⟨rfl, id⟩⟩

theorem State.LinesOnly.trans {s t u : State} (h : s.LinesOnly t) (k : t.LinesOnly u) : s.LinesOnly u := by
  obtain ⟨⟨a, ht⟩, lanes⟩ := h
  obtain ⟨⟨b, hu⟩, lanes'⟩ := k
  refine ⟨⟨a || b, ?_⟩, fun l => ?_⟩
  · rw [← Attention.reportIf_reportIf]
    rw [ht] at hu
    exact hu
  · obtain ⟨first, closed⟩ := lanes l
    obtain ⟨second, closed'⟩ := lanes' l
    refine ⟨?_, closed' ∘ closed⟩
    rw [first] at second
    exact second

theorem State.linesOnly_finishLine (s : State) (l : Fin 8) :
    s.LinesOnly (s.finishLine l) ∧ ((s.finishLine l).tx.get l).line = none := by
  obtain ⟨slips, finished⟩ := s.finishLine_frame l
  have tx : (s.finishLine l).tx = s.tx.set l
      { s.tx.get l with line := none, blanking := ((s.finishLine l).tx.get l).blanking } := congrArg State.tx finished
  have line : ((s.finishLine l).tx.get l).line = none := by rw [tx, Bank.get_set_self]
  refine ⟨⟨⟨slips, ?_⟩, fun k => ?_⟩, line⟩
  · rw [← tx] at finished
    exact finished
  · by_cases same : l = k
    · subst same
      refine ⟨?_, fun _ => line⟩
      rw [line]
      conv_lhs => rw [tx, Bank.get_set_self]
    · have other : (s.finishLine l).tx.get k = s.tx.get k := by rw [tx, Bank.get_set_ne _ _ same]
      rw [other]
      exact ⟨rfl, id⟩

/-- Drawn one after another, the lines of the lanes listed are all whole. -/
theorem State.linesOnly_finish (ls : List (Fin 8)) (s : State) : s.LinesOnly (ls.foldl State.finishLine s) ∧
    ∀ l ∈ ls, ((ls.foldl State.finishLine s).tx.get l).line = none := by
  induction ls generalizing s with
  | nil => exact ⟨.refl s, nofun⟩
  | cons k ls ih =>
    obtain ⟨first, closed⟩ := s.linesOnly_finishLine k
    obtain ⟨rest, others⟩ := ih (s.finishLine k)
    exact ⟨first.trans rest, List.forall_mem_cons.2 ⟨(rest.2 k).2 closed, others⟩⟩

theorem State.finishLines_closed {s : State} (closed : ∀ l, (s.tx.get l).line = none) : s.finishLines = s := by
  unfold State.finishLines
  generalize List.finRange 8 = ls
  induction ls with
  | nil => rfl
  | cons l ls ih => rw [List.foldl_cons, State.finishLine, State.goOnLine_closed (closed l), ih]

/-- The staged settings of lanes whose transmitters differ in line and blanking only. -/
theorem State.LinesOnly.stagedLanes {s t : State} (h : s.LinesOnly t) : t.stagedLanes = s.stagedLanes := by
  have settings : t.tx.map (·.staged) = s.tx.map (·.staged) := Bank.ext_get fun l => by
    rw [Bank.get_map, Bank.get_map, (h.2 l).1]
  have count (u : State) : u.stagedLanes = (u.tx.map (·.staged)).cells.countP (·.isSome) := by
    rw [State.stagedLanes, Bank.map, List.countP_map]
    rfl
  rw [count, count, settings]

/-- An emptied table has no record to lose its source. -/
theorem Table.anyNewlyLost_emptied (before : Table) {after : Table} (empty : after.slots = Bank.fill 256 none) :
    before.anyNewlyLost after = false := by
  rw [Bool.eq_false_iff, ne_eq, Table.anyNewlyLost_iff]
  rintro ⟨i, v, u, -, hu, -⟩
  simp [Table.holds, empty] at hu

/-- The table emptied but for the lanes' staged settings, and its changes reported (R72). -/
theorem State.reportTable_emptied (s : State) (lanes : Nat) :
    State.reportTable s { s with table := { Table.reset with staged := lanes } } = { s with
      table := ⟨Bank.fill 256 none, Bank.fill 192 none, 0, lanes⟩
      attn := (s.attn.reportIf (0 < s.table.staged && lanes = 0) .switchesDone).reportOccupancy s.table.occupancy 0 } := by
  rw [State.reportTable, Table.anyNewlyLost_emptied _ rfl]
  rfl

/-- Settles O32: the lines drawn whole leave counts, map and staged settings, and the emptied table is reported. -/
theorem purgeEmptiesTheTable : Obligations.PurgeEmptiesTheTable := by
  intro s params takes lanes u
  obtain ⟨drawn, closed⟩ : s.LinesOnly u ∧ ∀ l ∈ List.finRange 8, (u.tx.get l).line = none :=
    s.linesOnly_finish (List.finRange 8)
  have whole : (∀ l, (s.tx.get l).line = none) → u = s := State.finishLines_closed
  have finished : s.closePort.finishLines = u.withPort s.port.close := s.finishLines_withPort s.port.close
  clear_value u
  obtain ⟨slips, frame⟩ := drawn.1
  have attn : u.attn = s.attn.reportIf slips .slip := by rw [frame]
  have table : u.table = { s.table with slots := u.table.slots } := congrArg State.table frame
  refine ⟨?purge, whole, ?frame, fun l => ?lane, slips, attn⟩
  case purge =>
    have staged : (u.withPort s.port.close).stagedLanes = lanes := drawn.stagedLanes
    have row : exec (.purge params) s = .next (s.closePort.doPurge) := exec_row_takes takes .purge
    have counts : u.table.staged = s.table.staged ∧ u.table.occupancy = s.table.occupancy := by
      rw [table]
      exact ⟨rfl, rfl⟩
    rw [row, State.doPurge, finished, staged, State.reportTable_emptied, ← counts.1, ← counts.2]
    rfl
  case frame =>
    exact frame.trans (by rw [← table, ← attn])
  case lane =>
    have line : (u.tx.get l).line = none := closed l (List.mem_finRange l)
    rw [← line]
    exact (drawn.2 l).1

end Sys2Proof.Machine
end

section
/-! The laws on one record (spec 05, 06 section 6.9 and 07 section 7.4): lag, gain, staged source changes and retiring, each
kept by whatever an event makes of a record, and so by every step (R92, R96, R114, R124). -/

namespace Sys2Proof.Machine

/-! ### Entries as events move them (R76, R77, R85, R88, R101 to R104, R109) -/

@[simp] theorem Phase.withManner_manner (p : Phase) (m : Manner) : (p.withManner m).manner = some m := by
  cases p with
  | leaving _ => rfl
  | joining | filling | active => cases m <;> rfl

theorem Phase.withManner_ne_joining (p : Phase) (m : Manner) : p.withManner m ≠ .joining := by
  intro joining
  have manner := p.withManner_manner m
  rw [joining] at manner
  cases manner

theorem Phase.withManner_isLeaving {p : Phase} (h : p.isLeaving = true) (m : Manner) :
    (p.withManner m).isLeaving = true := by
  cases p with
  | leaving _ => rfl
  | joining | filling | active => cases h

/-- `f` is `e` after an event that leaves the marker and makes no entry JOINING. -/
def Entry.Moves (e f : Entry) : Prop := f.taken = e.taken ∧ (f.phase = .joining → e.phase = .joining)

theorem Entry.Moves.refl (e : Entry) : e.Moves e := ⟨rfl, id⟩

theorem Entry.moves_withManner (e : Entry) (m : Manner) (lag : Nat) :
    e.Moves { e with phase := e.phase.withManner m, lag := lag } :=
  ⟨rfl, fun joining => absurd joining (e.phase.withManner_ne_joining m)⟩

theorem Entry.moves_start (e : Entry) (view : SourceView) (src : Source) : e.Moves (e.start view src) :=
  e.moves_withManner ..

theorem Entry.start_ne_joining (e : Entry) (view : SourceView) (src : Source) : (e.start view src).phase ≠ .joining :=
  e.phase.withManner_ne_joining _

theorem Entry.moves_lose (e : Entry) : e.Moves e.lose := by
  unfold Entry.lose
  split
  · exact .refl e
  · exact .refl e
  · exact e.moves_withManner ..

theorem Entry.moves_stay (e : Entry) : e.Moves e.stay := by
  unfold Entry.stay
  split
  · exact ⟨rfl, nofun⟩
  · exact ⟨rfl, nofun⟩
  · exact .refl e

theorem Entry.moves_leave (e : Entry) : e.Moves e.leave := by
  unfold Entry.leave
  split
  · exact ⟨rfl, nofun⟩
  · exact ⟨rfl, nofun⟩
  · exact .refl e

theorem Track.moves_entryArrival (t : Track) (depth : Nat) (e : Entry) : e.Moves (t.entryArrival depth e) := by
  unfold Track.entryArrival
  split
  · exact ⟨rfl, id⟩
  · split
    · exact e.moves_withManner ..
    · exact .refl e

theorem Track.moves_entryDrawn (t : Track) (window : Nat → Sample) (e : Entry) : e.Moves (t.entryDrawn window e) := by
  unfold Track.entryDrawn
  split
  · exact ⟨rfl, id⟩
  · exact .refl e

theorem Track.moves_entryBack (t : Track) (view : SourceView) (back : Source → Bool) (e : Entry) :
    e.Moves (t.entryBack view back e) := by
  unfold Track.entryBack
  split
  · exact e.moves_start ..
  · exact .refl e

@[simp] theorem Entry.stay_manner (e : Entry) : e.stay.phase.manner = e.phase.manner := by
  unfold Entry.stay
  split
  · next phase => rw [phase]; rfl
  · next phase => rw [phase]; rfl
  · rfl

@[simp] theorem Entry.leave_manner (e : Entry) : e.leave.phase.manner = e.phase.manner := by
  unfold Entry.leave
  split
  · next phase => rw [phase]; rfl
  · next phase => rw [phase]; rfl
  · rfl

@[simp] theorem Entry.stay_lag (e : Entry) : e.stay.lag = e.lag := by unfold Entry.stay; split <;> rfl
@[simp] theorem Entry.leave_lag (e : Entry) : e.leave.lag = e.lag := by unfold Entry.leave; split <;> rfl

theorem Entry.leave_isLeaving {e : Entry} (h : e.phase.isJoining = false) : e.leave.phase.isLeaving = true := by
  obtain ⟨dest, phase, taken, lag, last⟩ := e
  cases phase with
  | joining => cases h
  | filling | active | leaving _ => rfl

/-! ### Records whose entries an event moves -/

/-- `u` is `t` with every entry moved by `f`; sources, state and guard stand. -/
structure Track.MovesEntries (t u : Track) (f : Entry → Entry) : Prop where
  entries : u.entries = t.entries.map f
  source : u.source = t.source
  pendingSource : u.pendingSource = t.pendingSource
  retiring : u.retiring = t.retiring
  guarded : u.guarded = t.guarded
  moves : ∀ e : Entry, e.Moves (f e)

section
variable (t : Track)

/-- An event that moves entries for one destination, whatever it makes of the slip and clip flags. -/
theorem Track.movesEntries_modifyEntry (d : Dest) {f : Entry → Entry} (moves : ∀ e : Entry, e.Moves (f e))
    (slipped clipped : Bool) : t.MovesEntries { t.modifyEntry d f with slipped := slipped, clipped := clipped }
      fun e => if e.dest = d then f e else e :=
  ⟨rfl, rfl, rfl, rfl, rfl, fun e => by split <;> [exact moves e; exact .refl e]⟩

theorem Track.movesEntries_arrive (into : Source → Bool) (depth : Nat) :
    t.MovesEntries (t.arrive into depth) fun e => if into (t.effective e) then t.entryArrival depth e else e :=
  ⟨rfl, rfl, rfl, rfl, rfl, fun e => by split <;> [exact t.moves_entryArrival depth e; exact .refl e]⟩

theorem Track.movesEntries_lose (gone : Source → Bool) :
    t.MovesEntries (t.lose gone) fun e => if gone (t.effective e) then e.lose else e := by
  refine ⟨t.lose_entries gone, t.lose_source gone, t.lose_pendingSource gone, ?_, ?_, fun e => ?_⟩
  · unfold Track.lose
    dsimp only
    split <;> rfl
  · unfold Track.lose
    dsimp only
    split <;> rfl
  · split
    · exact e.moves_lose
    · exact .refl e

theorem Track.movesEntries_regain (old : Track) (R : Nat) : Track.MovesEntries t (Track.regain old t R) id := by
  rw [Track.regain_eq]
  exact ⟨(List.map_id _).symm, rfl, rfl, rfl, rfl, Entry.Moves.refl⟩

theorem Track.movesEntries_comeBack (view : SourceView) (R : Nat) (back : Source → Bool) :
    t.MovesEntries (t.comeBack view R back) (t.entryBack view back) := by
  have moves := t.moves_entryBack view back
  unfold Track.comeBack
  dsimp only
  split
  · rw [Track.regain_eq]
    exact ⟨rfl, rfl, rfl, rfl, rfl, moves⟩
  · exact ⟨rfl, rfl, rfl, rfl, rfl, moves⟩

theorem Track.movesEntries_stepRamp : t.MovesEntries t.stepRamp id := by
  rw [Track.stepRamp_eq]
  exact ⟨(List.map_id _).symm, rfl, rfl, rfl, rfl, Entry.Moves.refl⟩
end

/-! ### Source changes staged and completed (R82, R91) -/

section
variable (t : Track) (view : SourceView)

theorem Track.completeChange_none (h : t.pendingSource = none) : t.completeChange view = t := by
  unfold Track.completeChange
  rw [h]

/-- While an entry is not taken nothing completes. -/
theorem Track.completeChange_untaken (h : ∃ e ∈ t.entries, e.taken = false) : t.completeChange view = t := by
  obtain ⟨e, mem, untaken⟩ := h
  unfold Track.completeChange
  split
  · rfl
  · rw [if_neg]
    intro all
    rw [List.all_eq_true.1 all e mem] at untaken
    cases untaken

/-- With every entry taken the pending source becomes the current one, and every marker no (R82). -/
theorem Track.completeChange_taken {src : Source} (pending : t.pendingSource = some src)
    (taken : ∀ e ∈ t.entries, e.taken = true) : t.completeChange view = { t with
      source := src, pendingSource := none, sourceLost := view.absent src
      entries := t.entries.map fun e => { e with taken := false } } := by
  unfold Track.completeChange
  rw [pending]
  exact if_pos (List.all_eq_true.2 taken)

/-- The examination of R82 leaves the record, or completes its source change. -/
theorem Track.completeChange_cases : (t.completeChange view = t ∧
      (t.pendingSource = none ∨ ∃ e ∈ t.entries, e.taken = false)) ∨
    ∃ src, t.pendingSource = some src ∧ (∀ e ∈ t.entries, e.taken = true) ∧ t.completeChange view = { t with
      source := src, pendingSource := none, sourceLost := view.absent src
      entries := t.entries.map fun e => { e with taken := false } } := by
  cases pending : t.pendingSource with
  | none => exact .inl ⟨t.completeChange_none view pending, .inl rfl⟩
  | some src =>
    by_cases taken : ∀ e ∈ t.entries, e.taken = true
    · exact .inr ⟨src, rfl, taken, t.completeChange_taken view pending taken⟩
    · have untaken : ∃ e ∈ t.entries, e.taken = false := by simpa using taken
      exact .inl ⟨t.completeChange_untaken view untaken, .inr untaken⟩

theorem Track.completeChange_gain :
    (t.completeChange view).gainNow = t.gainNow ∧ (t.completeChange view).ramp = t.ramp := by
  rcases t.completeChange_cases view with ⟨same, -⟩ | ⟨src, -, -, done⟩
  · rw [same]
    exact ⟨rfl, rfl⟩
  · rw [done]
    exact ⟨rfl, rfl⟩

@[simp] theorem Track.completeChange_retiring : (t.completeChange view).retiring = t.retiring := by
  rcases t.completeChange_cases view with ⟨same, -⟩ | ⟨src, -, -, done⟩
  · rw [same]
  · rw [done]
end

/-- An AMEND's items stored and flags cleared, its source aside (R90). -/
def Track.withItems (t : Track) (r : AmendRequest) : Track := { t with
  setGain := r.setGain.getD t.setGain, muted := r.muted.getD t.muted, inverted := r.inverted.getD t.inverted
  rounding := r.rounding.getD t.rounding
  slipped := t.slipped && !r.clearSlipped, clipped := t.clipped && !r.clearClipped }

/-- The record as an AMEND leaves it but for the gain fields: its items stored, and a source other than the current one
staged, or completed where every entry is JOINING (R90, R91). -/
def Track.withAmend (t : Track) (r : AmendRequest) (view : SourceView) : Track :=
  match r.source with
  | none => t.withItems r
  | some src => if src = t.source then t.withItems r else ((t.withItems r).stageSource src).completeChange view

section
variable (t : Track) (r : AmendRequest) (view : SourceView)

theorem Track.amended_eq (R : Nat) : t.amended r view R = Track.regain t (t.withAmend r view) R := rfl

theorem Track.withAmend_sameSource (same : r.source = none ∨ r.source = some t.source) :
    t.withAmend r view = t.withItems r := by
  unfold Track.withAmend
  rcases same with same | same <;> rw [same]
  exact if_pos rfl

theorem Track.withAmend_newSource {src : Source} (named : r.source = some src) (new : src ≠ t.source) :
    t.withAmend r view = ((t.withItems r).stageSource src).completeChange view := by
  unfold Track.withAmend
  rw [named]
  exact if_neg new

theorem Track.withAmend_cases : t.withAmend r view = t.withItems r ∨ ∃ src, r.source = some src ∧
    t.withAmend r view = ((t.withItems r).stageSource src).completeChange view := by
  cases named : r.source with
  | none => exact .inl (t.withAmend_sameSource r view (.inl named))
  | some src =>
    by_cases same : src = t.source
    · exact .inl (t.withAmend_sameSource r view (.inr (named.trans (congrArg some same))))
    · exact .inr ⟨src, rfl, t.withAmend_newSource r view named same⟩

theorem Track.withAmend_gain : (t.withAmend r view).gainNow = t.gainNow ∧ (t.withAmend r view).ramp = t.ramp := by
  rcases t.withAmend_cases r view with items | ⟨src, -, staged⟩
  · rw [items]
    exact ⟨rfl, rfl⟩
  · rw [staged]
    exact Track.completeChange_gain _ view

@[simp] theorem Track.withAmend_retiring : (t.withAmend r view).retiring = t.retiring := by
  rcases t.withAmend_cases r view with items | ⟨src, -, staged⟩
  · rw [items]
    rfl
  · rw [staged, Track.completeChange_retiring]
    rfl
end

/-! ### Records at a switch point (R81, R82, R95) -/

/-- What a switch point leaves of one entry: itself, where it neither starts nor leaves; else the entry started. -/
theorem Track.mem_landEntries {t : Track} {view : SourceView} {concerned : Dest → Bool} {f : Entry}
    (h : f ∈ (t.landEntries view concerned).entries) : ∃ e ∈ t.entries, f = e ∨
      (e.phase = .joining ∧ f = e.start view (t.effective e)) ∨
      ∃ src, t.pendingSource = some src ∧ f = ({ e with taken := true } : Entry).start view src := by
  obtain ⟨e, mem, landed⟩ := List.mem_filterMap.1 h
  refine ⟨e, mem, ?_⟩
  split at landed
  · unfold Track.entryAtSwitchPoint at landed
    split at landed
    · next joining => exact .inr (.inl ⟨joining, (Option.some.inj landed).symm⟩)
    · cases landed
    · split at landed
      · exact .inl (Option.some.inj landed).symm
      · next src pending =>
        split at landed
        · exact .inl (Option.some.inj landed).symm
        · exact .inr (.inr ⟨src, pending, (Option.some.inj landed).symm⟩)
  · exact .inl (Option.some.inj landed).symm

/-- A record that a switch point leaves has stood, or has had its entries handled and R82 examined. -/
theorem Track.atSwitchPoint_cases {t u : Track} {view : SourceView} {R : Nat} {concerned : Dest → Bool}
    (h : t.atSwitchPoint view R concerned = some u) :
    u = t ∨ u = Track.regain t ((t.landEntries view concerned).completeChange view) R := by
  unfold Track.atSwitchPoint at h
  dsimp only at h
  split at h
  · split at h
    · cases h
    · exact .inr (Option.some.inj h).symm
  · exact .inl (Option.some.inj h).symm

/-! ### The law on lag (R114) -/

/-- The law on lag, for one entry with this effective source (R114). -/
def Entry.LagFits (e : Entry) (src : Source) : Prop :=
  e.lag ≤ 16 ∧ (e.phase.manner ≠ some .active → e.lag = 0) ∧ (src = .none → e.lag = 0)

theorem Track.lagLaw_iff (t : Track) : t.LagLaw ↔ ∀ e ∈ t.entries, e.LagFits (t.effective e) := Iff.rfl

/-- How an entry starts on a source (R77). -/
theorem SourceView.startOn_eq (view : SourceView) (src : Source) : view.startOn src =
    if src = .none then (.active, 0) else if (view src).any (8 ≤ ·) then (.active, 8) else (.filling, 0) := by
  unfold SourceView.startOn
  cases view src with
  | none => rfl
  | some depth => by_cases deep : 8 ≤ depth <;> simp [Config.startLag, deep]

theorem Entry.lagFits_of_zero {e : Entry} (h : e.lag = 0) (src : Source) : e.LagFits src :=
  ⟨h ▸ Nat.zero_le 16, fun _ => h, fun _ => h⟩

/-- An entry that draws in the same manner and whose lag has not risen. -/
theorem Entry.LagFits.of_le {e f : Entry} {src : Source} (fits : e.LagFits src) (manner : f.phase.manner = e.phase.manner)
    (lag : f.lag ≤ e.lag) : f.LagFits src := by
  obtain ⟨bound, idle, silent⟩ := fits
  exact ⟨lag.trans bound, fun h => Nat.le_zero.1 (lag.trans_eq (idle (manner ▸ h))),
    fun h => Nat.le_zero.1 (lag.trans_eq (silent h))⟩

/-- An entry starts ACTIVE with lag 8 only on a source other than NONE, and with lag 0 else (R77). -/
theorem Entry.lagFits_start (e : Entry) (view : SourceView) (src : Source) : (e.start view src).LagFits src := by
  have lag : (e.start view src).lag = (view.startOn src).2 := rfl
  have manner : (e.start view src).phase.manner = some (view.startOn src).1 := Phase.withManner_manner ..
  rw [SourceView.startOn_eq] at lag manner
  by_cases silent : src = .none
  · rw [if_pos silent] at lag
    exact Entry.lagFits_of_zero lag src
  · by_cases deep : (view src).any (8 ≤ ·) = true
    · rw [if_neg silent, if_pos deep] at lag manner
      exact ⟨lag.trans_le (by decide), fun idle => absurd manner idle, fun none => absurd none silent⟩
    · rw [if_neg silent, if_neg deep] at lag
      exact Entry.lagFits_of_zero lag src

theorem Entry.LagFits.lose {e : Entry} {src : Source} (fits : e.LagFits src) : e.lose.LagFits src := by
  unfold Entry.lose
  split
  · exact fits
  · exact fits
  · exact Entry.lagFits_of_zero rfl src

theorem Track.lagFits_entryArrival {t : Track} {e : Entry} (fits : e.LagFits (t.effective e)) (depth : Nat)
    (sound : t.effective e ≠ .none) : (t.entryArrival depth e).LagFits (t.effective e) := by
  unfold Track.entryArrival
  split
  · next keeps =>
    have active : e.phase.manner = some .active := of_decide_eq_true (Bool.and_eq_true_iff.1 keeps).1
    exact ⟨Nat.min_le_right .., fun idle => absurd active idle, fun none => absurd none sound⟩
  · split
    · exact ⟨Nat.le_of_ble_eq_true rfl, fun idle => absurd (Phase.withManner_manner ..) idle,
        fun none => absurd none sound⟩
    · exact fits

theorem Track.lagFits_entryDrawn {t : Track} {e : Entry} {src : Source} (fits : e.LagFits src) (window : Nat → Sample) :
    (t.entryDrawn window e).LagFits src := by
  unfold Track.entryDrawn
  split
  · exact fits.of_le rfl (Nat.sub_le ..)
  · exact fits

theorem Track.lagFits_entryBack {t : Track} {e : Entry} (fits : e.LagFits (t.effective e)) (view : SourceView)
    (back : Source → Bool) : (t.entryBack view back e).LagFits (t.effective e) := by
  unfold Track.entryBack
  split
  · exact e.lagFits_start ..
  · exact fits

theorem Track.LagLaw.movesEntries {t u : Track} {f : Entry → Entry} (law : t.LagLaw) (h : t.MovesEntries u f)
    (fits : ∀ e, e.LagFits (t.effective e) → (f e).LagFits (t.effective e)) : u.LagLaw := by
  rw [Track.lagLaw_iff, h.entries, List.forall_mem_map]
  intro e mem
  have effective : u.effective (f e) = t.effective e := by
    simp only [Track.effective, h.source, h.pendingSource, (h.moves e).1]
  rw [effective]
  exact fits e (law e mem)

theorem Track.LagLaw.regain {t : Track} (law : t.LagLaw) (old : Track) (R : Nat) : (Track.regain old t R).LagLaw :=
  law.movesEntries (Track.movesEntries_regain t old R) fun _ => id

/-- A completed change leaves every entry its effective source (R82). -/
theorem Track.LagLaw.completeChange {t : Track} (law : t.LagLaw) (view : SourceView) : (t.completeChange view).LagLaw := by
  rcases t.completeChange_cases view with ⟨same, -⟩ | ⟨src, pending, taken, done⟩
  · rwa [same]
  · rw [done, Track.lagLaw_iff, List.forall_mem_map]
    intro e mem
    have effective : t.effective e = src := by simp [Track.effective, taken e mem, pending]
    have fits := law e mem
    rw [effective] at fits
    exact fits

/-- JOINING entries, which alone are taken, have no lag; the others' effective source stays the current one (R91). -/
theorem Track.LagLaw.stageSource {t : Track} (law : t.LagLaw) (pending : t.pendingSource = none) (src : Source) :
    (t.stageSource src).LagLaw := by
  rw [Track.lagLaw_iff, Track.stageSource, List.forall_mem_map]
  intro e mem
  have current : t.effective e = t.source := by simp [Track.effective, pending]
  have fits := law e mem
  cases joins : e.phase.isJoining with
  | true =>
    have joining : e.phase = .joining := of_decide_eq_true joins
    exact Entry.lagFits_of_zero (fits.2.1 (by rw [joining]; nofun)) _
  | false =>
    rw [current] at fits
    exact fits

theorem Track.LagLaw.landEntries {t : Track} (law : t.LagLaw) (view : SourceView) (concerned : Dest → Bool) :
    (t.landEntries view concerned).LagLaw := by
  intro f mem
  obtain ⟨e, mem, rfl | ⟨-, rfl⟩ | ⟨src, pending, rfl⟩⟩ := Track.mem_landEntries mem
  · exact law _ mem
  · exact e.lagFits_start view (t.effective e)
  · have effective : (t.landEntries view concerned).effective
        (({ e with taken := true } : Entry).start view src) = src := by
      simp [Track.effective, Track.landEntries, Entry.start, pending]
    rw [effective]
    exact Entry.lagFits_start ..

/-- Every event on a record keeps the law on lag (R114). -/
theorem recordLaw_lag : RecordLaw Track.LagLaw where
  admitted _ _ _ _ _ := List.forall_mem_map.2 fun _ _ => Entry.lagFits_of_zero rfl _
  amended t r view R law _ _ alone := by
    rw [t.amended_eq]
    refine Track.LagLaw.regain ?_ t R
    rcases t.withAmend_cases r view with items | ⟨src, named, staged⟩
    · rw [items]
      exact law
    · rw [staged]
      have pending : (t.withItems r).pendingSource = none := alone (by rw [named]; rfl)
      exact (Track.LagLaw.stageSource (t := t.withItems r) law pending src).completeChange view
  stayed t d law _ := law.movesEntries (t.movesEntries_modifyEntry d Entry.moves_stay t.slipped t.clipped) fun e fits => by
    split
    · exact fits.of_le e.stay_manner e.stay_lag.le
    · exact fits
  attached t d law _ _ _ := by
    intro e mem
    rcases List.mem_append.1 mem with old | new
    · exact law e old
    · rw [List.mem_singleton.1 new]
      exact Entry.lagFits_of_zero rfl _
  dropped t d _ view R law _ _ _ _ := by
    have kept : (t.dropEntry d).LagLaw := fun e mem => law e (List.mem_of_mem_filter mem)
    exact (kept.completeChange view).regain t R
  left t d _ law _ _ _ _ :=
    law.movesEntries (t.movesEntries_modifyEntry d Entry.moves_leave t.slipped t.clipped) fun e fits => by
      split
      · exact fits.of_le e.leave_manner e.leave_lag.le
      · exact fits
  retired t law _ _ pending := List.forall_mem_map.2 fun e mem => by
    have current (f : Entry) : t.effective f = t.source := by simp [Track.effective, pending]
    have fits : e.LagFits (t.effective e) := law e (List.mem_of_mem_filter mem)
    have same : t.retire.effective e.leave = t.effective e := (current e.leave).trans (current e).symm
    exact Entry.LagFits.of_le (same ▸ fits) e.leave_manner e.leave_lag.le
  guarded _ _ law _ := law
  landed t u view R concerned law h := by
    rcases Track.atSwitchPoint_cases h with rfl | rfl
    · exact law
    · exact ((law.landEntries view concerned).completeChange view).regain t R
  arrived t into depth law noneOut := law.movesEntries (t.movesEntries_arrive into depth) fun e fits => by
    split
    · next here =>
      refine Track.lagFits_entryArrival fits depth fun silent => ?_
      rw [silent, noneOut] at here
      cases here
    · exact fits
  drawn t d _ window slipped clipped law _ :=
    law.movesEntries (t.movesEntries_modifyEntry d (t.moves_entryDrawn window) slipped clipped) fun e fits => by
      split
      · exact Track.lagFits_entryDrawn fits window
      · exact fits
  lost t gone law _ := law.movesEntries (t.movesEntries_lose gone) fun e fits => by
    split
    · exact fits.lose
    · exact fits
  back t view R back law _ :=
    law.movesEntries (t.movesEntries_comeBack view R back) fun _ fits => Track.lagFits_entryBack fits view back
  stepped t law := law.movesEntries t.movesEntries_stepRamp fun _ => id

/-! ### The law on staged source changes (R92) -/

theorem Track.ChangeLaw.movesEntries {t u : Track} {f : Entry → Entry} (law : t.ChangeLaw) (h : t.MovesEntries u f) :
    u.ChangeLaw := by
  obtain ⟨pending, idle⟩ := law
  refine ⟨fun held => ?_, fun none => ?_⟩
  · rw [h.pendingSource] at held
    obtain ⟨⟨e, mem, untaken⟩, joining⟩ := pending held
    rw [h.entries, List.forall_mem_map]
    exact ⟨⟨f e, List.mem_map_of_mem mem, (h.moves e).1.trans untaken⟩,
      fun g hg phase => (h.moves g).1.trans (joining g hg ((h.moves g).2 phase))⟩
  · rw [h.pendingSource] at none
    rw [h.entries, List.forall_mem_map]
    exact fun e mem => (h.moves e).1.trans (idle none e mem)

theorem Track.ChangeLaw.regain {t : Track} (law : t.ChangeLaw) (old : Track) (R : Nat) :
    (Track.regain old t R).ChangeLaw := law.movesEntries (Track.movesEntries_regain t old R)

/-- The examination of R82 leaves a pending source only with an entry not taken (R92). -/
theorem Track.changeLaw_completeChange {t : Track}
    (joining : t.pendingSource.isSome → ∀ e ∈ t.entries, e.phase = .joining → e.taken = true)
    (idle : t.pendingSource = none → ∀ e ∈ t.entries, e.taken = false) (view : SourceView) :
    (t.completeChange view).ChangeLaw := by
  rcases t.completeChange_cases view with ⟨same, none | untaken⟩ | ⟨src, -, -, done⟩
  · rw [same]
    exact ⟨fun held => (by rw [none] at held; cases held), idle⟩
  · rw [same]
    exact ⟨fun held => ⟨untaken, joining held⟩, idle⟩
  · rw [done]
    exact ⟨fun held => (nomatch held), fun _ => List.forall_mem_map.2 fun _ _ => rfl⟩

/-- Every event on a record keeps the law on staged source changes (R92). -/
theorem recordLaw_change : RecordLaw Track.ChangeLaw where
  admitted _ _ _ _ _ := ⟨fun held => (nomatch held), fun _ => List.forall_mem_map.2 fun _ _ => rfl⟩
  amended t r view R law _ _ _ := by
    rw [t.amended_eq]
    refine Track.ChangeLaw.regain ?_ t R
    rcases t.withAmend_cases r view with items | ⟨src, -, staged⟩
    · rw [items]
      exact law
    · rw [staged]
      refine Track.changeLaw_completeChange (fun _ => ?joining) (fun idle => ?pending) view
      case joining => exact List.forall_mem_map.2 fun e _ joining => decide_eq_true joining
      case pending => cases idle
  stayed t d law _ := law.movesEntries (t.movesEntries_modifyEntry d Entry.moves_stay t.slipped t.clipped)
  attached t d law _ _ _ := by
    obtain ⟨pending, idle⟩ := law
    refine ⟨fun held => ?_, fun none => ?_⟩
    · obtain ⟨⟨e, mem, untaken⟩, joining⟩ := pending held
      refine ⟨⟨e, List.mem_append_left _ mem, untaken⟩, List.forall_mem_append.2 ⟨joining, ?_⟩⟩
      exact List.forall_mem_singleton.2 fun _ => held
    · exact List.forall_mem_append.2 ⟨idle none, List.forall_mem_singleton.2 (by rw [none]; rfl)⟩
  dropped t d _ view R law _ _ _ _ := by
    obtain ⟨pending, idle⟩ := law
    refine (Track.changeLaw_completeChange (fun held e mem => ?_) (fun none e mem => ?_) view).regain t R
    · exact (pending held).2 e (List.mem_of_mem_filter mem)
    · exact idle none e (List.mem_of_mem_filter mem)
  left t d _ law _ _ _ _ := law.movesEntries (t.movesEntries_modifyEntry d Entry.moves_leave t.slipped t.clipped)
  retired t law _ _ idle := by
    refine ⟨fun held => ?_, fun _ => List.forall_mem_map.2 fun e mem => ?_⟩
    · rw [show t.retire.pendingSource = none from idle] at held
      cases held
    · exact e.moves_leave.1.trans (law.2 idle e (List.mem_of_mem_filter mem))
  guarded _ _ law _ := law
  landed t u view R concerned law h := by
    rcases Track.atSwitchPoint_cases h with rfl | rfl
    · exact law
    · obtain ⟨pending, idle⟩ := law
      refine (Track.changeLaw_completeChange (fun held f mem' joining => ?_) (fun none f mem' => ?_) view).regain t R
      · obtain ⟨e, mem, rfl | ⟨-, rfl⟩ | ⟨src, -, rfl⟩⟩ := Track.mem_landEntries mem'
        · exact (pending held).2 _ mem joining
        · exact absurd joining (Entry.start_ne_joining _ _ _)
        · exact absurd joining (Entry.start_ne_joining _ _ _)
      · obtain ⟨e, mem, rfl | ⟨-, rfl⟩ | ⟨src, some, -⟩⟩ := Track.mem_landEntries mem'
        · exact idle none _ mem
        · exact idle none e mem
        · cases none.symm.trans some
  arrived t into depth law _ := law.movesEntries (t.movesEntries_arrive into depth)
  drawn t d _ window slipped clipped law _ :=
    law.movesEntries (t.movesEntries_modifyEntry d (t.moves_entryDrawn window) slipped clipped)
  lost t gone law _ := law.movesEntries (t.movesEntries_lose gone)
  back t view R back law _ := law.movesEntries (t.movesEntries_comeBack view R back)
  stepped t law := law.movesEntries t.movesEntries_stepRamp

/-! ### The law on retiring tracks (R96) -/

theorem Track.retiringLaw_of_live {t : Track} (live : t.retiring = false) : t.RetiringLaw := by
  intro retiring
  rw [live] at retiring
  cases retiring

theorem Track.RetiringLaw.movesEntries {t u : Track} {f : Entry → Entry} (law : t.RetiringLaw) (h : t.MovesEntries u f)
    (leaving : ∀ e, e.phase.isLeaving = true → (f e).phase.isLeaving = true) : u.RetiringLaw := by
  intro retiring
  obtain ⟨none, free, leaves⟩ := law (h.retiring ▸ retiring)
  refine ⟨h.pendingSource.trans none, h.guarded.trans free, ?_⟩
  rw [h.entries, List.forall_mem_map]
  exact fun e mem => leaving e (leaves e mem)

theorem Track.RetiringLaw.regain {t : Track} (law : t.RetiringLaw) (old : Track) (R : Nat) :
    (Track.regain old t R).RetiringLaw := law.movesEntries (Track.movesEntries_regain t old R) fun _ => id

/-- A RETIRING record has no source change to complete (R93, R96). -/
theorem Track.RetiringLaw.completeChange {t : Track} (law : t.RetiringLaw) (view : SourceView) :
    (t.completeChange view).RetiringLaw := by
  intro retiring
  rw [Track.completeChange_retiring] at retiring
  obtain ⟨none, -, -⟩ := law retiring
  rw [t.completeChange_none view none]
  exact law retiring

theorem Track.RetiringLaw.landEntries {t : Track} (law : t.RetiringLaw) (view : SourceView) (concerned : Dest → Bool) :
    (t.landEntries view concerned).RetiringLaw := by
  intro retiring
  obtain ⟨none, free, leaves⟩ := law retiring
  refine ⟨none, free, fun f mem => ?_⟩
  obtain ⟨e, mem, rfl | ⟨joining, -⟩ | ⟨src, some, -⟩⟩ := Track.mem_landEntries mem
  · exact leaves _ mem
  · have leaving := leaves e mem
    rw [joining] at leaving
    cases leaving
  · cases none.symm.trans some

@[simp] theorem Track.regain_retiring (old t : Track) (R : Nat) : (Track.regain old t R).retiring = t.retiring :=
  (Track.movesEntries_regain t old R).retiring

theorem Track.isLeaving_entryArrival (t : Track) (depth : Nat) {e : Entry} (h : e.phase.isLeaving = true) :
    (t.entryArrival depth e).phase.isLeaving = true := by
  unfold Track.entryArrival
  split
  · exact h
  · split
    · exact Phase.withManner_isLeaving h _
    · exact h

theorem Track.isLeaving_entryDrawn (t : Track) (window : Nat → Sample) {e : Entry} (h : e.phase.isLeaving = true) :
    (t.entryDrawn window e).phase.isLeaving = true := by
  unfold Track.entryDrawn
  split <;> exact h

theorem Track.isLeaving_entryBack (t : Track) (view : SourceView) (back : Source → Bool) {e : Entry}
    (h : e.phase.isLeaving = true) : (t.entryBack view back e).phase.isLeaving = true := by
  unfold Track.entryBack
  split
  · exact Phase.withManner_isLeaving h _
  · exact h

/-- Every event on a record keeps the law on retiring tracks (R96). -/
theorem recordLaw_retiring : RecordLaw Track.RetiringLaw where
  admitted _ _ _ _ _ := Track.retiringLaw_of_live rfl
  amended t r view R _ live _ _ := Track.retiringLaw_of_live (by simpa [t.amended_eq] using live)
  stayed _ _ _ live := Track.retiringLaw_of_live live
  attached _ _ _ live _ _ := Track.retiringLaw_of_live live
  dropped _ _ _ _ _ _ live _ _ _ := Track.retiringLaw_of_live (by
    rw [Track.regain_retiring, Track.completeChange_retiring]
    exact live)
  left _ _ _ _ live _ _ _ := Track.retiringLaw_of_live live
  retired _ _ _ free none _ := ⟨none, free, List.forall_mem_map.2 fun _ mem =>
    Entry.leave_isLeaving (by simpa using (List.mem_filter.1 mem).2)⟩
  guarded _ _ _ live := Track.retiringLaw_of_live live
  landed t u view R concerned law h := by
    rcases Track.atSwitchPoint_cases h with rfl | rfl
    · exact law
    · exact ((law.landEntries view concerned).completeChange view).regain t R
  arrived t into depth law _ := law.movesEntries (t.movesEntries_arrive into depth) fun e leaving => by
    split
    · exact t.isLeaving_entryArrival depth leaving
    · exact leaving
  drawn t d _ window slipped clipped law _ :=
    law.movesEntries (t.movesEntries_modifyEntry d (t.moves_entryDrawn window) slipped clipped) fun e leaving => by
      split
      · exact t.isLeaving_entryDrawn window leaving
      · exact leaving
  lost t gone law _ := law.movesEntries (t.movesEntries_lose gone) fun e leaving => by
    split
    · rwa [Entry.lose_isLeaving]
    · exact leaving
  back t view R back law _ :=
    law.movesEntries (t.movesEntries_comeBack view R back) fun _ => t.isLeaving_entryBack view back
  stepped t law := law.movesEntries t.movesEntries_stepRamp fun _ => id

/-! ### The law on gain (R124) -/

theorem Track.target_lost {t : Track} (lost : t.sourceLost = true) : t.target = 0 := by
  simp [Track.target, lost]

/-- A record with no ramp at its target meets the law. -/
theorem Track.gainLaw_steady {t : Track} (ramp : t.ramp = none) (gainNow : t.gainNow = t.target) : t.GainLaw :=
  ⟨fun _ held => (nomatch ramp.symm.trans held), fun _ => gainNow,
    fun lost => ⟨gainNow.trans (Track.target_lost lost), ramp⟩⟩

theorem Track.gainLaw_cut (t : Track) : t.cut.GainLaw :=
  Track.gainLaw_steady rfl (Track.target_lost (t := t.cut) rfl).symm

/-- A record that ramps, from gain now or past it, toward its target, its source not lost. -/
theorem Track.gainLaw_ramping {t : Track} {r : Ramp} (ramp : t.ramp = some r) (target : r.target = t.target)
    (runs : r.elapsed < r.length) (low : min r.start r.target ≤ t.gainNow) (high : t.gainNow ≤ max r.start r.target)
    (lost : t.sourceLost = false) : t.GainLaw := by
  refine ⟨fun r' held => ?_, fun none => (nomatch ramp.symm.trans none), fun yes => nomatch lost.symm.trans yes⟩
  cases ramp.symm.trans held
  exact ⟨target, runs, low, high⟩

/-- An event that finds the law kept and leaves gain now and ramp to R119 and R120 keeps it. -/
theorem Track.GainLaw.regain {old t : Track} (law : old.GainLaw) (gainNow : t.gainNow = old.gainNow)
    (ramp : t.ramp = old.ramp) (R : Nat) : (Track.regain old t R).GainLaw := by
  obtain ⟨ramping, steady, silent⟩ := law
  unfold Track.regain
  split
  · exact t.gainLaw_cut
  · next kept =>
    have stood : t.sourceLost = true → old.sourceLost = true := by
      intro lost
      simpa [lost] using kept
    unfold Track.retarget
    split
    · next same =>
      unfold Track.GainLaw
      rw [same, gainNow, ramp]
      exact ⟨ramping, steady, silent ∘ stood⟩
    · split
      · next reached => exact Track.gainLaw_steady rfl reached.symm
      · next away =>
        split
        · exact Track.gainLaw_steady rfl rfl
        · next length =>
          have present : t.sourceLost = false := by
            rw [Bool.eq_false_iff]
            intro lost
            rw [Track.target_lost lost, gainNow, (silent (stood lost)).1] at away
            exact away rfl
          exact Track.gainLaw_ramping rfl rfl (Nat.pos_of_ne_zero length) (Nat.min_le_left ..) (Nat.le_max_left ..) present

/-- G(k) of a ramp upward by `d` (R122). -/
theorem Ramp.gainAt_up {r : Ramp} {d : Nat} (rise : r.target = r.start + d) (k : Nat) :
    r.gainAt k = r.start + d * k / r.length := by
  have slope : ((r.target : Int) - r.start) * k = ((d * k : Nat) : Int) := by
    rw [rise]
    push_cast
    ring
  rw [Ramp.gainAt, slope, ← Int.ofNat_tdiv]
  generalize d * k / r.length = moved
  omega

/-- G(k) of a ramp downward by `d` (R122). -/
theorem Ramp.gainAt_down {r : Ramp} {d : Nat} (fall : r.start = r.target + d) (k : Nat) :
    r.gainAt k = r.start - d * k / r.length := by
  have slope : ((r.target : Int) - r.start) * k = -((d * k : Nat) : Int) := by
    rw [fall]
    push_cast
    ring
  rw [Ramp.gainAt, slope, Int.neg_tdiv, ← Int.ofNat_tdiv]
  generalize d * k / r.length = moved
  omega

/-- Up to its last step a ramp stands between its ends (R122). -/
theorem Ramp.gainAt_between (r : Ramp) {k : Nat} (within : k ≤ r.length) :
    min r.start r.target ≤ r.gainAt k ∧ r.gainAt k ≤ max r.start r.target := by
  have part (d : Nat) : d * k / r.length ≤ d := by
    rw [Nat.mul_comm]
    exact Nat.div_le_of_le_mul (Nat.mul_le_mul_right d within)
  rcases Nat.le_total r.start r.target with up | down
  · obtain ⟨d, rise⟩ := Nat.exists_eq_add_of_le up
    rw [Ramp.gainAt_up rise, Nat.min_eq_left up, Nat.max_eq_right up]
    exact ⟨Nat.le_add_right .., (Nat.add_le_add_left (part d) _).trans_eq rise.symm⟩
  · obtain ⟨d, fall⟩ := Nat.exists_eq_add_of_le down
    rw [Ramp.gainAt_down fall, Nat.min_eq_right down, Nat.max_eq_left down]
    exact ⟨(Nat.le_sub_of_add_le (by rw [fall]; exact Nat.add_le_add_left (part d) _)), Nat.sub_le ..⟩

theorem Track.GainLaw.stepRamp {t : Track} (law : t.GainLaw) : t.stepRamp.GainLaw := by
  obtain ⟨ramping, steady, silent⟩ := law
  unfold Track.stepRamp
  split
  · exact ⟨ramping, steady, silent⟩
  · next r held =>
    obtain ⟨target, runs, -, -⟩ := ramping r held
    split
    · exact Track.gainLaw_steady rfl target
    · next early =>
      obtain ⟨low, high⟩ := r.gainAt_between (Nat.le_of_not_le early)
      refine Track.gainLaw_ramping rfl target (Nat.lt_of_not_le early) low high ?_
      rw [Bool.eq_false_iff]
      exact fun lost => nomatch held.symm.trans (silent lost).2

/-- A new record ramps from 0 where its target and the ramp length are above 0, else stands at its target (R61). -/
theorem Track.gainLaw_admitted (r : AdmitRequest) (view : SourceView) (R : Nat) : (r.track view R).GainLaw := by
  have target : (r.track view R).target = if r.muted || view.absent r.source then 0 else r.setGain := rfl
  have gainNow : (r.track view R).gainNow = if R = 0 then (r.track view R).target else 0 := rfl
  have ramp : (r.track view R).ramp =
      if 0 < (r.track view R).target && 0 < R then some ⟨0, r.setGain, R, 0⟩ else none := rfl
  by_cases starts : 0 < (r.track view R).target ∧ 0 < R
  · obtain ⟨sounds, length⟩ := starts
    have present : ¬(r.muted || view.absent r.source) = true := by
      intro silent
      rw [target, if_pos silent] at sounds
      exact Nat.lt_irrefl 0 sounds
    refine Track.gainLaw_ramping (r := ⟨0, r.setGain, R, 0⟩) ?_ ?_ length ?_ ?_ ?_
    · simp [ramp, sounds, length]
    · rw [target, if_neg present]
    · exact (Nat.min_le_left ..).trans (Nat.zero_le _)
    · rw [gainNow, if_neg (Nat.ne_of_gt length)]
      exact Nat.zero_le _
    · exact Bool.eq_false_iff.2 fun lost => present (by rw [show view.absent r.source = true from lost, Bool.or_true])
  · refine Track.gainLaw_steady ?_ ?_
    · rw [ramp, if_neg (by simpa using starts)]
    · rw [gainNow]
      split <;> omega

/-- Every event on a record keeps the law on gain (R124). -/
theorem recordLaw_gain : RecordLaw Track.GainLaw where
  admitted _ r view R _ := Track.gainLaw_admitted r view R
  amended t r view R law _ _ _ := by
    obtain ⟨gainNow, ramp⟩ := t.withAmend_gain r view
    exact law.regain gainNow ramp R
  stayed _ _ law _ := law
  attached _ _ law _ _ _ := law
  dropped t d _ view R law _ _ _ _ := by
    obtain ⟨gainNow, ramp⟩ := (t.dropEntry d).completeChange_gain view
    exact law.regain gainNow ramp R
  left _ _ _ law _ _ _ _ := law
  retired _ law _ _ _ := law
  guarded _ _ law _ := law
  landed t u view R concerned law h := by
    rcases Track.atSwitchPoint_cases h with rfl | rfl
    · exact law
    · obtain ⟨gainNow, ramp⟩ := (t.landEntries view concerned).completeChange_gain view
      exact law.regain gainNow ramp R
  arrived _ _ _ law _ := law
  drawn _ _ _ _ _ _ law _ := law
  lost t gone law _ := by
    unfold Track.lose
    dsimp only
    split
    · exact Track.gainLaw_cut _
    · exact law
  back t view R back law _ := by
    unfold Track.comeBack
    dsimp only
    split
    · apply law.regain <;> rfl
    · exact law
  stepped _ law := law.stepRamp

/-! ### Every step -/

theorem step_every {P : Track → Prop} (L : RecordLaw P) {s t : State} (stepped : step s = .next t)
    (law : s.table.Every P) : t.table.Every P := by
  unfold step at stepped
  split at stepped
  · cases stepped
    exact law
  · refine exec_every L _ ?_ stepped
    exact law

/-- Settles O58: each law is one that every event on a record keeps. -/
theorem stepsKeepTheTrackLaws : Obligations.StepsKeepTheTrackLaws :=
  fun _ _ stepped => ⟨step_every recordLaw_lag stepped, step_every recordLaw_gain stepped,
    step_every recordLaw_change stepped, step_every recordLaw_retiring stepped⟩

end Sys2Proof.Machine
end

section
/-! Switch points (spec 05 section 5.3): the gain fields after an event, then the entries handled, the change completed and the
record freed (R77, R81, R82, R95, R119, R120). -/

namespace Sys2Proof.Machine

/-! ### The gain fields after an event (R82, R119, R120) -/

section
variable {t : Track} {before R : Nat}

theorem Track.retarget_same (same : t.target = before) : t.retarget before R = t := if_pos same

theorem Track.retarget_reached (changed : t.target ≠ before) (reached : t.target = t.gainNow) :
    t.retarget before R = { t with ramp := none } := by
  rw [Track.retarget, if_neg changed, if_pos reached]

theorem Track.retarget_jumps (changed : t.target ≠ before) (away : t.target ≠ t.gainNow) (length : R = 0) :
    t.retarget before R = { t with gainNow := t.target, ramp := none } := by
  rw [Track.retarget, if_neg changed, if_neg away, if_pos length]

theorem Track.retarget_ramps (changed : t.target ≠ before) (away : t.target ≠ t.gainNow) (length : R ≠ 0) :
    t.retarget before R = { t with ramp := some ⟨t.gainNow, t.target, R, 0⟩ } := by
  rw [Track.retarget, if_neg changed, if_neg away, if_neg length]
end

section
variable {old t : Track} {R : Nat}

/-- A source newly lost cuts (R82, R120). -/
theorem Track.regain_cuts (lost : t.sourceLost = true) (present : old.sourceLost = false) :
    Track.regain old t R = t.cut := by
  rw [Track.regain, lost, present]
  rfl

/-- Any other event follows R119. -/
theorem Track.regain_retargets (stood : t.sourceLost = true → old.sourceLost = true) :
    Track.regain old t R = t.retarget old.target R := by
  rw [Track.regain, if_neg]
  intro newly
  obtain ⟨lost, present⟩ := Bool.and_eq_true_iff.1 newly
  rw [stood lost] at present
  cases present

/-- The gain fields' part of an event touches gain now and the ramp only. -/
theorem Track.regain_gain_eq : Track.regain old t R = { t with
    gainNow := (Track.regain old t R).gainNow, ramp := (Track.regain old t R).ramp } := by
  by_cases newly : t.sourceLost = true ∧ old.sourceLost = false
  · obtain ⟨lost, present⟩ := newly
    rw [Track.regain_cuts lost present]
    show t.cut = { t with gainNow := 0, ramp := none }
    rw [Track.cut, ← lost]
  · rw [Track.regain_retargets fun lost => by simpa [lost] using newly]
    exact t.retarget_eq ..

/-- An event that leaves the target leaves the record as it made it. -/
theorem Track.regain_unchanged (lost : t.sourceLost = old.sourceLost) (target : t.target = old.target) :
    Track.regain old t R = t := by
  rw [Track.regain_retargets (lost ▸ id), Track.retarget_same target]

/-- From silence the gain goes up by R119: at once where the ramp length is 0, else along a ramp from 0. -/
theorem Track.regain_from_silence (present : t.sourceLost = false) (silent : old.target = 0) (gainNow : t.gainNow = 0)
    (ramp : t.ramp = none) : (Track.regain old t R).gainNow = (if R = 0 then t.target else 0) ∧
      (Track.regain old t R).ramp = if t.target = 0 ∨ R = 0 then none else some ⟨0, t.target, R, 0⟩ := by
  rw [Track.regain_retargets fun lost => (nomatch lost.symm.trans present), silent]
  by_cases still : t.target = 0
  · rw [Track.retarget_same still, gainNow, ramp, still]
    simp
  · have away : t.target ≠ t.gainNow := gainNow ▸ still
    by_cases length : R = 0
    · rw [Track.retarget_jumps still away length, if_pos length, if_pos (.inr length)]
      exact ⟨rfl, rfl⟩
    · rw [Track.retarget_ramps still away length, if_neg length, if_neg (by simp [still, length])]
      exact ⟨gainNow, by rw [gainNow]⟩
end

/-- What R119 and R120 make of the gain fields of an event that found them as `old`. -/
theorem Track.regain_gain {old v : Track} (gainNow : v.gainNow = old.gainNow) (ramp : v.ramp = old.ramp) {R : Nat} {u : Track}
    (regained : Track.regain old v R = u) :
    (u.sourceLost = true → old.sourceLost = false → u.gainNow = 0 ∧ u.ramp = none) ∧
    ((u.sourceLost = true → old.sourceLost = true) →
      (u.target = old.target → u.gainNow = old.gainNow ∧ u.ramp = old.ramp) ∧
      (u.target ≠ old.target → u.target = old.gainNow → u.gainNow = old.gainNow ∧ u.ramp = none) ∧
      (u.target ≠ old.target → u.target ≠ old.gainNow → R = 0 → u.gainNow = u.target ∧ u.ramp = none) ∧
      (u.target ≠ old.target → u.target ≠ old.gainNow → R ≠ 0 →
        u.gainNow = old.gainNow ∧ u.ramp = some ⟨old.gainNow, u.target, R, 0⟩)) := by
  have same := Track.regain_gain_eq (old := old) (t := v) (R := R)
  rw [regained] at same
  have lost : u.sourceLost = v.sourceLost := by rw [same]
  have target : u.target = v.target := by rw [same]; rfl
  rw [lost, target, ← gainNow, ← ramp]
  refine ⟨fun newly present => ?_, fun stood => ?_⟩
  · rw [← regained, Track.regain_cuts newly present]
    exact ⟨rfl, rfl⟩
  · rw [Track.regain_retargets stood] at regained
    subst regained
    refine ⟨fun stands => ?_, fun changed reached => ?_, fun changed away length => ?_, fun changed away length => ?_⟩
    · rw [Track.retarget_same stands]
      exact ⟨rfl, rfl⟩
    · rw [Track.retarget_reached changed reached]
      exact ⟨rfl, rfl⟩
    · rw [Track.retarget_jumps changed away length]
      exact ⟨rfl, rfl⟩
    · rw [Track.retarget_ramps changed away length]
      exact ⟨rfl, rfl⟩

/-! ### Entries at their switch point (R77, R81) -/

/-- How an entry that does not leave starts on a source (R77). -/
theorem Entry.start_eq {e : Entry} (stays : e.phase.isLeaving = false) (view : SourceView) (src : Source) :
    e.start view src = if src = .none then { e with phase := .active, lag := 0 }
      else if (view src).any (8 ≤ ·) then { e with phase := .active, lag := 8 }
      else { e with phase := .filling, lag := 0 } := by
  have manner (m : Manner) : e.phase.withManner m = match m with | .filling => .filling | .active => .active := by
    cases phase : e.phase with
    | leaving _ => rw [phase] at stays; cases stays
    | joining | filling | active => cases m <;> rfl
  rw [Entry.start, manner, SourceView.startOn_eq]
  by_cases silent : src = .none
  · simp only [if_pos silent]
  · by_cases deep : (view src).any (8 ≤ ·) = true
    · simp only [if_neg silent, if_pos deep]
    · simp only [if_neg silent, if_neg deep]

/-! ### A record at a switch point (R81, R82, R95) -/

section
variable {t : Track} {view : SourceView} {R : Nat} {concerned : Dest → Bool}

theorem Track.atSwitchPoint_away (away : ∀ e ∈ t.entries, concerned e.dest = false) :
    t.atSwitchPoint view R concerned = some t := by
  rw [Track.atSwitchPoint, if_neg]
  intro here
  obtain ⟨e, mem, concerns⟩ := List.any_eq_true.1 here
  rw [away e mem] at concerns
  cases concerns

theorem Track.atSwitchPoint_concerned (here : ∃ e ∈ t.entries, concerned e.dest = true) {u : Track}
    (examined : Track.regain t ((t.landEntries view concerned).completeChange view) R = u) :
    t.atSwitchPoint view R concerned = if u.retiring && u.entries.isEmpty then none else some u := by
  rw [Track.atSwitchPoint, if_pos (List.any_eq_true.2 here), examined]

/-- Where no change completes, a switch point does no more than handle the entries, and frees the record if it is RETIRING
with its list emptied (R95). -/
theorem Track.atSwitchPoint_incomplete (here : ∃ e ∈ t.entries, concerned e.dest = true) {list : List Entry}
    (landed : (t.landEntries view concerned).entries = list)
    (incomplete : t.pendingSource = none ∨ ∃ e ∈ list, e.taken = false) : t.atSwitchPoint view R concerned =
      if t.retiring && list.isEmpty then none else some { t with entries := list } := by
  have stands : (t.landEntries view concerned).completeChange view = { t with entries := list } := by
    rw [← landed]
    rcases incomplete with none | untaken
    · exact Track.completeChange_none _ view none
    · exact Track.completeChange_untaken _ view (landed ▸ untaken)
  exact Track.atSwitchPoint_concerned here ((congrArg (Track.regain t · R) stands).trans (Track.regain_unchanged rfl rfl))

/-- Where every entry is then taken, the change completes (R82). -/
theorem Track.atSwitchPoint_complete (here : ∃ e ∈ t.entries, concerned e.dest = true) {list : List Entry}
    (landed : (t.landEntries view concerned).entries = list) {src : Source} (live : t.retiring = false)
    (pending : t.pendingSource = some src) (taken : ∀ e ∈ list, e.taken = true) : t.atSwitchPoint view R concerned =
      some (Track.regain t { t with
        source := src, pendingSource := none, sourceLost := view.absent src
        entries := list.map fun e => { e with taken := false } } R) := by
  have done : (t.landEntries view concerned).completeChange view = { t with
      source := src, pendingSource := none, sourceLost := view.absent src
      entries := list.map fun e => { e with taken := false } } := by
    rw [Track.completeChange_taken (t.landEntries view concerned) view (src := src) pending (landed ▸ taken), landed]
    rfl
  rw [Track.atSwitchPoint_concerned here (congrArg (Track.regain t · R) done), Track.regain_retiring]
  simp [live]
end

/-- Settles O44: the entries handled one by one, then the cases of R82 and R95 on the list they leave. -/
theorem switchPointLandsChanges : Obligations.SwitchPointLandsChanges := by
  intro t view R concerned _ started list
  have start (src : Source) (taken : Bool) {e : Entry} (stays : e.phase.isLeaving = false) :
      ({ e with taken := taken } : Entry).start view src = started src taken e :=
    Entry.start_eq (e := { e with taken := taken }) stays view src
  have landed : (t.landEntries view concerned).entries = list := List.filterMap_congr fun e _ => by
    cases concerns : concerned e.dest with
    | false => rfl
    | true =>
      rw [if_pos rfl, if_neg nofun]
      unfold Track.entryAtSwitchPoint
      obtain ⟨dest, phase, taken, lag, last⟩ := e
      cases phase with
      | joining => exact congrArg some (start _ taken (e := ⟨dest, .joining, taken, lag, last⟩) rfl)
      | leaving m => rfl
      | filling | active =>
        cases t.pendingSource with
        | none => rfl
        | some src =>
          dsimp only
          split
          · rfl
          · exact congrArg some (start src true (e := ⟨dest, _, taken, lag, last⟩) rfl)
  clear_value list
  refine ⟨fun away => Track.atSwitchPoint_away away, fun here => ⟨fun retiring idle => ?retiring, fun live idle => ?idle,
    fun src live _ untaken => ?pending, fun src live pending taken => ?complete⟩⟩
  case retiring =>
    rw [Track.atSwitchPoint_incomplete here landed (.inl idle), retiring]
    simp
  case idle => rw [Track.atSwitchPoint_incomplete here landed (.inl idle), live]; rfl
  case pending => rw [Track.atSwitchPoint_incomplete here landed (.inr untaken), live]; rfl
  case complete =>
    have absent : view.absent src = (decide (src ≠ .none) && (view src).isNone) := by
      simp [SourceView.absent, bne, beq_eq_decide]
    rw [Track.atSwitchPoint_complete here landed live pending taken, absent]
    clear_value started
    generalize settled : ({ t with
      source := src, pendingSource := none, sourceLost := decide (src ≠ .none) && (view src).isNone
      entries := list.map fun e => { e with taken := false } } : Track) = v
    have gainNow : v.gainNow = t.gainNow := by rw [← settled]
    have ramp : v.ramp = t.ramp := by rw [← settled]
    have target : v.target = if t.muted || v.sourceLost then 0 else t.setGain := by rw [← settled]; rfl
    have regained : Track.regain t v R = _ := Track.regain_gain_eq
    have lost : (Track.regain t v R).sourceLost = v.sourceLost := by rw [regained]
    have target' : (Track.regain t v R).target = v.target := by rw [regained]; rfl
    obtain ⟨cuts, follows⟩ := Track.regain_gain gainNow ramp (R := R) rfl
    refine ⟨_, rfl, ?_, cuts, fun same => ?_, fun present silent still steady => ?_⟩
    · rw [regained, ← settled]
    · refine (follows (same ▸ id)).1 ?_
      rw [target', target, ← lost, same]
      rfl
    · rw [target']
      exact Track.regain_from_silence (lost ▸ present) (Track.target_lost silent) (gainNow.trans still)
        (ramp.trans steady)

end Sys2Proof.Machine
end

section
/-! ATTACH, DETACH and AMEND past their checks (spec 05 sections 5.4 to 5.6): one record replaced, its staged items and the
reports that follow (R82, R84 to R91, R119, R125 to R127). -/

namespace Sys2Proof.Machine

/-! ### One record replaced, settled (R65 to R67, R160) -/

/-- One slot's record replaced newly loses a source exactly where its own is newly lost (R160). -/
theorem Table.anyNewlyLost_set {before after : Table} {i : Fin 256} {o : Option Track}
    (slots : after.slots = before.slots.set i o) : before.anyNewlyLost after = newlyLost (before.slots.get i) o := by
  cases lost : newlyLost (before.slots.get i) o with
  | false => exact Table.anyNewlyLost_put slots lost
  | true =>
    obtain ⟨v, u, held, rfl, present, newly⟩ := (newlyLost_eq_true_iff ..).1 lost
    exact (Table.anyNewlyLost_iff ..).2 ⟨i, v, u, held, by rw [Table.holds, slots, Bank.get_set_self], present, newly⟩

/-- An event that puts `u` in the place of `t`: the staged items change by the records' own, then the reports. -/
theorem State.settle_replaced {s : State} {tab : Table} {i : Fin 256} {t u : Track} (held : s.table.holds i t)
    (slots : tab.slots = s.table.slots.set i (some u)) {staged : Nat}
    (items : s.table.staged + u.stagedItems - t.stagedItems = staged) :
    State.settle s { s with table := tab } = { s with
      table := { tab with occupancy := s.table.occupancy, staged := staged }
      attn := (s.attn.reportIf (u.sourceLost && !t.sourceLost) .sourceLost).reportIf
        (0 < s.table.staged && staged = 0) .switchesDone } := by
  have slot : s.table.slots.get i = some t := held
  have occupancy : s.table.occupancy + (some u).isSome.toNat - (some t).isSome.toNat = s.table.occupancy :=
    Nat.add_sub_cancel ..
  have items : s.table.staged + slotItems (some u) - slotItems (some t) = staged := items
  have lost := Table.anyNewlyLost_set (after := { tab with occupancy := s.table.occupancy, staged := staged }) slots
  rw [State.settle_put s tab i (some u) slots, slot, occupancy, items, State.reportTable, lost, slot]
  dsimp only
  rw [Attention.reportOccupancy_same]
  rfl

section
variable {s : State} {tab : Table} {i : Fin 256} {t u : Track} (held : s.table.holds i t)
include held

/-- Staged items added, if any: the count does not fall, so no completion of all switches is reported (R67). -/
theorem State.settle_adds {k : Nat} (items : u.stagedItems = t.stagedItems + k)
    (slots : tab.slots = s.table.slots.set i (some u)) : State.settle s { s with table := tab } = { s with
      table := { tab with occupancy := s.table.occupancy, staged := s.table.staged + k }
      attn := s.attn.reportIf (u.sourceLost && !t.sourceLost) .sourceLost } := by
  have rises : (decide (0 < s.table.staged) && decide (s.table.staged + k = 0)) = false := by
    simp
    omega
  rw [State.settle_replaced held slots (staged := s.table.staged + k) (by omega), rises]
  rfl

/-- A record put back as it stands changes nothing. -/
theorem State.settle_stands : State.settle s { s with table := s.table.put i (some t) } = s := by
  have put : s.table.put i (some t) = s.table := by
    rw [Table.put, ← show s.table.slots.get i = some t from held, Bank.set_get]
  rw [State.settle_adds held (k := 0) rfl rfl, Bool.and_not_self, put]
  rfl

/-- One staged item more, no source newly lost. -/
theorem State.settle_rises (items : u.stagedItems = t.stagedItems + 1) (slots : tab.slots = s.table.slots.set i (some u))
    (lost : u.sourceLost = t.sourceLost) : State.settle s { s with table := tab } = { s with
      table := { tab with occupancy := s.table.occupancy, staged := s.table.staged + 1 } } := by
  rw [State.settle_adds held items slots, lost, Bool.and_not_self]
  rfl

/-- One staged item fewer, no source newly lost: the count falls to 0 exactly where it stood at 1 (R67). -/
theorem State.settle_falls (items : u.stagedItems + 1 = t.stagedItems) (slots : tab.slots = s.table.slots.set i (some u))
    (lost : u.sourceLost = t.sourceLost) : State.settle s { s with table := tab } = { s with
      table := { tab with occupancy := s.table.occupancy, staged := s.table.staged - 1 }
      attn := s.attn.reportIf (s.table.staged = 1) .switchesDone } := by
  have falls : (decide (0 < s.table.staged) && decide (s.table.staged - 1 = 0)) = decide (s.table.staged = 1) := by
    rw [Bool.eq_iff_iff]
    simp
    omega
  rw [State.settle_replaced held slots (staged := s.table.staged - 1) (by omega), lost, Bool.and_not_self, falls]
  rfl
end

/-! ### One entry of a list (R54, R66) -/

/-- Whether an entry is a staged item (R66). -/
def Entry.isStaged (e : Entry) : Bool := e.phase.isJoining || e.phase.isLeaving

theorem Track.stagedItems_eq (t : Track) :
    t.stagedItems = t.pendingSource.isSome.toNat + t.entries.countP Entry.isStaged := rfl

section
variable {t : Track} {d : Dest} {e : Entry} (distinct : (t.entries.map (·.dest)).Nodup) (entry : t.entryFor d = some e)
include distinct entry

/-- A list parts at its one entry for a destination. -/
theorem Track.entries_split : ∃ before after, t.entries = before ++ e :: after ∧ e.dest = d ∧
    (∀ f ∈ before, f.dest ≠ d) ∧ ∀ f ∈ after, f.dest ≠ d := by
  obtain ⟨mem, rfl⟩ := Track.entryFor_eq_some entry
  obtain ⟨before, after, parts⟩ := List.append_of_mem mem
  rw [parts, List.map_append, List.map_cons, List.nodup_append, List.nodup_cons] at distinct
  obtain ⟨-, ⟨behind, -⟩, ahead⟩ := distinct
  exact ⟨before, after, parts, rfl, fun f hf => ahead _ (List.mem_map_of_mem hf) _ List.mem_cons_self,
    fun f hf same => behind (same ▸ List.mem_map_of_mem hf)⟩

/-- Only what becomes of the one entry for the destination counts. -/
theorem Track.modifyEntry_congr {f g : Entry → Entry} (same : f e = g e) : t.modifyEntry d f = t.modifyEntry d g := by
  rw [Track.modifyEntry_of_entry distinct entry f, Track.modifyEntry_of_entry distinct entry g, same]

theorem Track.modifyEntry_stands {f : Entry → Entry} (stands : f e = e) : t.modifyEntry d f = t := by
  rw [Track.modifyEntry_congr distinct entry (g := id) stands]
  simp [Track.modifyEntry]

theorem Track.stagedItems_modifyEntry (f : Entry → Entry) :
    (t.modifyEntry d f).stagedItems + e.isStaged.toNat = t.stagedItems + (f e).isStaged.toNat := by
  obtain ⟨before, after, parts, here, ahead, behind⟩ := Track.entries_split distinct entry
  have others {es : List Entry} (other : ∀ g ∈ es, g.dest ≠ d) : (es.map fun g => if g.dest = d then f g else g) = es :=
    (List.map_congr_left fun g mem => if_neg (other g mem)).trans (List.map_id' es)
  have entries : (t.modifyEntry d f).entries = before ++ f e :: after := by
    rw [Track.modifyEntry, parts, List.map_append, List.map_cons, others ahead, others behind, if_pos here]
  have pending : (t.modifyEntry d f).pendingSource = t.pendingSource := rfl
  rw [Track.stagedItems_eq, Track.stagedItems_eq, entries, parts, pending]
  simp only [List.countP_append, List.countP_cons]
  cases e.isStaged <;> cases (f e).isStaged <;> simp <;> omega

theorem Track.stagedItems_dropEntry : (t.dropEntry d).stagedItems + e.isStaged.toNat = t.stagedItems := by
  obtain ⟨before, after, parts, here, ahead, behind⟩ := Track.entries_split distinct entry
  have others {es : List Entry} (other : ∀ g ∈ es, g.dest ≠ d) : es.filter (fun g => g.dest ≠ d) = es :=
    List.filter_eq_self.2 fun g mem => decide_eq_true (other g mem)
  have entries : (t.dropEntry d).entries = before ++ after := by
    rw [Track.dropEntry, parts, List.filter_append, List.filter_cons_of_neg (by simp [here]), others ahead, others behind]
  have pending : (t.dropEntry d).pendingSource = t.pendingSource := rfl
  rw [Track.stagedItems_eq, Track.stagedItems_eq, entries, parts, pending]
  simp only [List.countP_append, List.countP_cons]
  cases e.isStaged <;> simp
  omega
end

/-! ### ATTACH (R84 to R86) -/

section
variable {s : State} {params : List Byte} {label : Nat} {d : Dest} {i : Fin 256} {t : Track}
variable (read : readAttach params = some (label, d)) (found : s.table.lookup label = some (i, t))
variable (live : t.retiring = false)
include read found live

theorem State.doAttach_own {e : Entry} (entry : t.entryFor d = some e) : s.doAttach params =
    (State.settle s { s with table := s.table.put i (some (t.modifyEntry d Entry.stay)) }).answer .attach .done [] := by
  simp [State.doAttach, read, found, live, entry]

theorem State.doAttach_joins (absent : t.entryFor d = none) (unowned : ∀ n, s.table.ownerOf d = some n → n = label)
    (room : t.entries.length < 8) (embeds : s.embeds d = true) : s.doAttach params =
    (State.settle s { s with table := (s.table.put i (some { t with
      entries := t.entries ++ [Entry.new d t.pendingSource.isSome] })).claim [d] label }).answer .attach .done [] := by
  have here := Table.not_owned_elsewhere unowned
  have room : ¬Config.listLimit ≤ t.entries.length := Nat.not_le.2 room
  simp only [State.doAttach, read, found, live, absent, here, room, embeds]
  rfl
end

/-- An entry that draws in the manner `m` (R76). -/
def Entry.drawing (m : Manner) (e : Entry) : Entry :=
  { e with phase := match m with | .active => .active | .filling => .filling }

/-- A cancelled leave returns to the manner it left from (R85). -/
theorem Entry.stay_leaving {e : Entry} {m : Manner} (leaving : e.phase = .leaving m) : e.stay = e.drawing m := by
  obtain ⟨dest, phase, taken, lag, last⟩ := e
  cases leaving
  cases m <;> rfl

/-- An entry that draws and does not leave is not staged, and begins to leave in its manner (R66, R88). -/
theorem Entry.leave_drawing {e : Entry} {m : Manner} (manner : e.phase.manner = some m) (stays : e.phase.isLeaving = false) :
    e.phase.isJoining = false ∧ e.isStaged = false ∧ e.leave = { e with phase := .leaving m } := by
  obtain ⟨dest, phase, taken, lag, last⟩ := e
  cases phase with
  | joining => cases manner
  | leaving _ => cases stays
  | filling | active =>
    cases manner
    exact ⟨rfl, rfl, rfl⟩

/-- Settles O28: the three answers are one record put back, with a leave cancelled, as it stood, or with one entry more. -/
theorem attachJoinsOrCancels : Obligations.AttachJoinsOrCancels := by
  intro s params label d i t takes read found live distinct
  obtain ⟨held, -, -⟩ := Table.lookup_eq_some found
  have row : exec (.attach params) s = .next (s.closePort.doAttach params) := exec_row_takes takes .attach
  refine ⟨fun e m entry leaving => ?cancels, fun e entry stays => ?stands, fun absent unowned room embeds => ?joins⟩
  case cancels =>
    have back := Entry.stay_leaving leaving
    have items := Track.stagedItems_modifyEntry distinct entry Entry.stay
    have before : e.isStaged = true := by rw [Entry.isStaged, leaving]; rfl
    have after : e.stay.isStaged = false := by rw [back]; cases m <;> rfl
    rw [before, after] at items
    rw [row, State.doAttach_own (s := s.closePort) read found live entry,
      State.settle_falls (s := s.closePort) held items rfl rfl, Track.modifyEntry_congr distinct entry back]
    rfl
  case stands =>
    have still : e.stay = e := by
      obtain ⟨dest, phase, taken, lag, last⟩ := e
      cases phase with
      | leaving m => cases stays
      | joining | filling | active => rfl
    rw [row, State.doAttach_own (s := s.closePort) read found live entry,
      Track.modifyEntry_stands distinct entry still, State.settle_stands (s := s.closePort) held]
    rfl
  case joins =>
    have items : ({ t with entries := t.entries ++ [Entry.new d t.pendingSource.isSome] } : Track).stagedItems =
        t.stagedItems + 1 := by
      rw [Track.stagedItems_eq, Track.stagedItems_eq, List.countP_append, ← Nat.add_assoc]
      rfl
    rw [row, State.doAttach_joins (s := s.closePort) read found live absent unowned room embeds,
      State.settle_rises (s := s.closePort) held items rfl rfl]
    rfl

/-! ### DETACH (R87, R88) -/

section
variable {s : State} {params : List Byte} {label : Nat} {d : Dest} {i : Fin 256} {t : Track}
variable (read : readAttach params = some (label, d)) (found : s.table.lookup label = some (i, t))
variable (live : t.retiring = false) (free : t.guarded = false) {e : Entry} (entry : t.entryFor d = some e)
include read found live free entry

theorem State.doDetach_joining (joins : e.phase.isJoining = true) : s.doDetach params =
    (State.settle s { s with table := (s.table.put i (some (Track.regain t ((t.dropEntry d).completeChange s.view)
      s.gain.rampLength))).release [d] }).answer .detach .done [] := by
  simp [State.doDetach, read, found, live, free, entry, joins]

theorem State.doDetach_leaves (stays : e.phase.isJoining = false) : s.doDetach params =
    (State.settle s { s with
      table := s.table.put i (some (t.modifyEntry d Entry.leave)) }).answer .detach .done [] := by
  simp [State.doDetach, read, found, live, free, entry, stays]
end

/-- A JOINING entry is taken where a source change is pending, so its going completes none (R92). -/
theorem Track.ChangeLaw.dropEntry_incomplete {t : Track} (law : t.ChangeLaw) {d : Dest} {e : Entry}
    (distinct : (t.entries.map (·.dest)).Nodup) (entry : t.entryFor d = some e) (joining : e.phase = .joining)
    (view : SourceView) : (t.dropEntry d).completeChange view = t.dropEntry d := by
  obtain ⟨mem, rfl⟩ := Track.entryFor_eq_some entry
  cases pending : t.pendingSource with
  | none => exact Track.completeChange_none _ view pending
  | some src =>
    obtain ⟨⟨f, mem', untaken⟩, taken⟩ := law.1 (by rw [pending]; rfl)
    refine Track.completeChange_untaken _ view ⟨f, List.mem_filter.2 ⟨mem', decide_eq_true fun same => ?_⟩, untaken⟩
    rw [List.inj_on_of_nodup_map distinct mem' mem same, taken e mem joining] at untaken
    cases untaken

/-- Settles O29: a JOINING entry's record is put back without it, any other's with the leave begun. -/
theorem detachByPhase : Obligations.DetachByPhase := by
  intro s params label d i t e takes read found live free lists changes entry
  obtain ⟨held, -, -⟩ := Table.lookup_eq_some found
  have distinct : (t.entries.map (·.dest)).Nodup := lists.2
  have row : exec (.detach params) s = .next (s.closePort.doDetach params) := exec_row_takes takes .detach
  refine ⟨fun joining => ?removed, fun m manner stays => ?leaves, fun m leaving => ?stands⟩
  case removed =>
    have staged : e.isStaged = true := by rw [Entry.isStaged, joining]; rfl
    have items := Track.stagedItems_dropEntry distinct entry
    rw [staged] at items
    rw [row, State.doDetach_joining (s := s.closePort) read found live free entry (by rw [joining]; rfl),
      changes.dropEntry_incomplete distinct entry joining, Track.regain_unchanged (old := t) (t := t.dropEntry d) rfl rfl,
      State.settle_falls (s := s.closePort) held items rfl rfl]
    rfl
  case leaves =>
    obtain ⟨draws, before, leave⟩ := Entry.leave_drawing manner stays
    have items := Track.stagedItems_modifyEntry distinct entry Entry.leave
    rw [before, show e.leave.isStaged = true by rw [leave]; rfl] at items
    rw [row, State.doDetach_leaves (s := s.closePort) read found live free entry draws,
      State.settle_rises (s := s.closePort) held items rfl rfl,
      Track.modifyEntry_congr distinct entry (g := fun f => { f with phase := .leaving m }) leave]
    rfl
  case stands =>
    have still : e.leave = e := by rw [Entry.leave, leaving]
    rw [row, State.doDetach_leaves (s := s.closePort) read found live free entry (by rw [leaving]; rfl),
      Track.modifyEntry_stands distinct entry still, State.settle_stands (s := s.closePort) held]
    rfl

/-! ### AMEND (R82, R90, R91, R119, R125 to R127) -/

section
variable (t : Track) (r : AmendRequest) (view : SourceView)

/-- A source staged and examined: pending while some entry is not JOINING, else current at once (R82, R91). -/
theorem Track.stageSource_pending {t : Track} (draws : ∃ e ∈ t.entries, e.phase ≠ .joining) (src : Source) :
    (t.stageSource src).completeChange view = t.stageSource src := by
  obtain ⟨e, mem, draws⟩ := draws
  exact Track.completeChange_untaken _ view ⟨_, List.mem_map_of_mem mem, decide_eq_false draws⟩

theorem Track.stageSource_completes {t : Track} (joining : ∀ e ∈ t.entries, e.phase = .joining) (src : Source) :
    (t.stageSource src).completeChange view = { t with
      source := src, pendingSource := none, sourceLost := view.absent src
      entries := t.entries.map fun e => { e with taken := false } } := by
  rw [Track.completeChange_taken (t.stageSource src) view rfl
    (List.forall_mem_map.2 fun e mem => decide_eq_true (joining e mem))]
  simp [Track.stageSource]

/-- An AMEND's items stand as stored, whatever becomes of its source. -/
theorem Track.withAmend_eq : t.withAmend r view = { t.withItems r with
    source := (t.withAmend r view).source, pendingSource := (t.withAmend r view).pendingSource
    sourceLost := (t.withAmend r view).sourceLost, entries := (t.withAmend r view).entries } := by
  rcases t.withAmend_cases r view with items | ⟨src, -, staged⟩
  · rw [items]
  · rw [staged]
    rcases ((t.withItems r).stageSource src).completeChange_cases view with ⟨same, -⟩ | ⟨_, -, -, done⟩
    · rw [same]
      rfl
    · rw [done]
      rfl

/-- Markers count nothing among the staged items (R66). -/
theorem countP_isStaged_taken (es : List Entry) (f : Entry → Bool) :
    (es.map fun e => ({ e with taken := f e } : Entry)).countP Entry.isStaged = es.countP Entry.isStaged := by
  rw [List.countP_map]
  rfl

/-- The staged items rise by one exactly where the change stays pending (R66, R91). -/
theorem Track.stagedItems_withAmend (alone : r.source.isSome → t.pendingSource = none) :
    (t.withAmend r view).stagedItems = t.stagedItems +
      if (t.withAmend r view).pendingSource.isSome && t.pendingSource.isNone then 1 else 0 := by
  rcases t.withAmend_cases r view with items | ⟨src, named, staged⟩
  · have pending : (t.withItems r).pendingSource = t.pendingSource := rfl
    rw [items, pending]
    cases t.pendingSource <;> rfl
  · have idle : t.pendingSource = none := alone (by rw [named]; rfl)
    rw [staged, Track.stagedItems_eq t, idle, Track.stagedItems_eq]
    rcases ((t.withItems r).stageSource src).completeChange_cases view with ⟨same, -⟩ | ⟨_, -, -, done⟩
    · have markers : ((t.withItems r).stageSource src).entries.countP Entry.isStaged = t.entries.countP Entry.isStaged :=
        countP_isStaged_taken t.entries _
      rw [same, markers]
      show 1 + _ = 0 + _ + 1
      omega
    · rw [done, countP_isStaged_taken]
      show 0 + ((t.entries.map _).countP _) = 0 + _
      rw [countP_isStaged_taken]
end

/-- What an AMEND leaves: its items stored, its source as the change stands, and gain now and ramp. -/
theorem Track.amended_frame {t u : Track} {r : AmendRequest} {view : SourceView} {R : Nat}
    (amended : t.amended r view R = u) : u = { t.withItems r with
    source := (t.withAmend r view).source, pendingSource := (t.withAmend r view).pendingSource
    sourceLost := (t.withAmend r view).sourceLost, gainNow := u.gainNow, ramp := u.ramp
    entries := (t.withAmend r view).entries } := by
  have shape := Track.regain_gain_eq (old := t) (t := t.withAmend r view) (R := R)
  rw [← t.amended_eq, amended] at shape
  exact shape.trans (by conv_lhs => rw [t.withAmend_eq])

theorem State.doAmend_accepted {s : State} {params : List Byte} {r : AmendRequest} {i : Fin 256} {t : Track}
    (read : readAmend params = some r) (found : s.table.lookup r.label = some (i, t)) (live : t.retiring = false)
    (free : t.guarded = false) (alone : r.source.isSome → t.pendingSource = none) : s.doAmend params =
    (State.settle s { s with
      table := s.table.put i (some (t.amended r s.view s.gain.rampLength)) }).answer .amend .done [] := by
  have accepted : (r.source.isSome && t.pendingSource.isSome) = false := by
    cases named : r.source.isSome with
    | false => rfl
    | true => rw [alone named]; rfl
  simp [State.doAmend, read, found, live, free, accepted]

/-- Settles O25: the record put back with its items stored, its source change staged or completed, and its gain regained. -/
theorem amendAppliesItsItems : Obligations.AmendAppliesItsItems := by
  intro s params r i t takes read found live free alone
  obtain ⟨held, -, -⟩ := Table.lookup_eq_some found
  have row : exec (.amend params) s = .next (s.closePort.doAmend params) := exec_row_takes takes .amend
  obtain ⟨u, amended⟩ : ∃ u, t.amended r s.view s.gain.rampLength = u := ⟨_, rfl⟩
  have frame := Track.amended_frame amended
  obtain ⟨gainNow, ramp⟩ := t.withAmend_gain r s.view
  have source : u.source = (t.withAmend r s.view).source := (congrArg Track.source frame :)
  have pending : u.pendingSource = (t.withAmend r s.view).pendingSource := (congrArg Track.pendingSource frame :)
  have lost : u.sourceLost = (t.withAmend r s.view).sourceLost := (congrArg Track.sourceLost frame :)
  have entries : u.entries = (t.withAmend r s.view).entries := (congrArg Track.entries frame :)
  have items : u.stagedItems =
      t.stagedItems + if u.pendingSource.isSome && t.pendingSource.isNone then 1 else 0 := by
    rw [Track.stagedItems_eq u, pending, entries, ← Track.stagedItems_eq, t.stagedItems_withAmend r s.view alone]
  have accepted := State.doAmend_accepted (s := s.closePort) read found live free alone
  rw [show t.amended r s.closePort.view s.closePort.gain.rampLength = u from amended,
    State.settle_adds (s := s.closePort) held items rfl] at accepted
  refine ⟨u, row.trans (congrArg _ accepted), (congrArg Track.label frame :), (congrArg Track.retiring frame).trans live,
    (congrArg Track.guarded frame).trans free, (congrArg Track.setGain frame :), (congrArg Track.muted frame :),
    (congrArg Track.inverted frame :), (congrArg Track.rounding frame :), (congrArg Track.slipped frame :),
    (congrArg Track.clipped frame :), fun same => ?same, fun src named new draws => ?staged,
    fun src named new joining => ?completed, Track.regain_gain gainNow ramp amended⟩
  case same =>
    rw [source, pending, lost, entries, t.withAmend_sameSource r s.view same]
    exact ⟨rfl, rfl, rfl, rfl⟩
  case staged =>
    rw [source, pending, lost, entries, t.withAmend_newSource r s.view named new,
      Track.stageSource_pending (t := t.withItems r) s.view draws]
    exact ⟨rfl, rfl, rfl, rfl⟩
  case completed =>
    rw [source, pending, lost, entries, t.withAmend_newSource r s.view named new,
      Track.stageSource_completes (t := t.withItems r) s.view joining]
    exact ⟨rfl, rfl, by simp [SourceView.absent], rfl⟩

end Sys2Proof.Machine
end

section
/-! Lines whose draws fall in several events (spec 08 section 8.5, R133; log 20): one channel's draw, a list of draws in
turn, what closes a line, and the rows of a line reached and of one that goes on. -/

namespace Sys2Proof.Machine

/-! ### A line open or whole (R142) -/

theorem OpenPacket.mem_left {p : OpenPacket} {c : Fin 4} :
    c ∈ p.left ↔ p.drawn.countP (fun x => x.1 = c) < p.sets := by
  have some : c ∈ p.left ↔ 0 < p.left.countP (· = c) := by simp [List.countP_pos_iff]
  rw [some, p.countP_left, Nat.sub_pos_iff_lt]

/-- Nothing is left to draw on the line. -/
def OpenLine.Drawn (line : OpenLine) : Prop := ∀ p ∈ line.packets, p.left = []

theorem OpenLine.drawn_iff (line : OpenLine) :
    line.packets.all (fun p => p.left.isEmpty) = true ↔ line.Drawn := by
  simp [OpenLine.Drawn]

section
variable {tx : LaneTx} {line : OpenLine}

theorem LaneTx.withLine_of_drawn (h : line.Drawn) :
    tx.withLine line = { tx with line := none, blanking := line.blanking tx.phase } :=
  tx.withLine_whole (line.drawn_iff.2 h)

theorem LaneTx.withLine_of_not_drawn (h : ¬line.Drawn) : tx.withLine line = { tx with line := some line } :=
  tx.withLine_open (Bool.eq_false_iff.2 fun all => h (line.drawn_iff.1 all))

theorem LaneTx.withLine_line_eq_none : (tx.withLine line).line = none ↔ line.Drawn := by
  by_cases h : line.Drawn
  · simp [LaneTx.withLine_of_drawn h, h]
  · simp [LaneTx.withLine_of_not_drawn h, h]

/-- The line that stood before has no part in the one that stands. -/
theorem LaneTx.withLine_congr {x : LaneTx} (same : { tx with line := none } = { x with line := none }) :
    tx.withLine line = x.withLine line := by
  have replaces (y : LaneTx) : y.withLine line = ({ y with line := none } : LaneTx).withLine line := by
    unfold LaneTx.withLine
    split <;> rfl
  rw [replaces, same, ← replaces]
end

theorem State.setTx_setTx (s : State) (l : Fin 8) (x y : LaneTx) : (s.setTx l x).setTx l y = s.setTx l y := by
  simp only [State.setTx, Bank.set_set]

/-! ### One draw of a line (R133, R144) -/

section
variable (s : State) (l : Fin 8)

/-- Packets of other groups have no part in a draw. -/
theorem State.drawOne_append {g : Fin 4} (c : Fin 4) {ps : List OpenPacket} (others : ∀ q ∈ ps, q.group ≠ g)
    (qs : List OpenPacket) :
    s.drawOne l g c (ps ++ qs) = (ps ++ (s.drawOne l g c qs).1, (s.drawOne l g c qs).2) := by
  induction ps with
  | nil => rfl
  | cons p ps ih =>
    obtain ⟨other, rest⟩ := List.forall_mem_cons.1 others
    rw [List.cons_append, State.drawOne, if_neg other, ih rest]
    rfl

/-- Where no packet is of the group nothing is drawn. -/
theorem State.drawOne_absent {g : Fin 4} (c : Fin 4) {ps : List OpenPacket} (others : ∀ q ∈ ps, q.group ≠ g) :
    s.drawOne l g c ps = (ps, s) := by
  have all := s.drawOne_append l c others []
  rwa [State.drawOne, List.append_nil] at all

/-- A channel with a draw left makes it as the part stands. -/
theorem State.drawOne_left {p : OpenPacket} {c : Fin 4} (left : c ∈ p.left) (ps : List OpenPacket) :
    s.drawOne l p.group c (p :: ps) =
      ({ p with drawn := p.drawn ++ [(c, (s.draw (.lane l p.group c) p.word).1)] } :: ps,
        (s.draw (.lane l p.group c) p.word).2) := by
  rw [State.drawOne, if_pos rfl, if_pos left]

theorem State.drawOne_made {p : OpenPacket} {c : Fin 4} (made : c ∉ p.left) (ps : List OpenPacket) :
    s.drawOne l p.group c (p :: ps) = (p :: ps, s) := by
  rw [State.drawOne, if_pos rfl, if_neg made]

theorem State.drawOne_of_drawn (g c : Fin 4) {ps : List OpenPacket} (drawn : ∀ p ∈ ps, p.left = []) :
    s.drawOne l g c ps = (ps, s) := by
  induction ps with
  | nil => rfl
  | cons p ps ih =>
    obtain ⟨none, rest⟩ := List.forall_mem_cons.1 drawn
    by_cases same : p.group = g
    · rw [← same]
      exact s.drawOne_made l (by simp [none]) ps
    · rw [State.drawOne, if_neg same, ih rest]

theorem State.drawOne_setTx (m : Fin 8) (x : LaneTx) (g c : Fin 4) (ps : List OpenPacket) :
    (s.setTx m x).drawOne l g c ps = ((s.drawOne l g c ps).1, (s.drawOne l g c ps).2.setTx m x) := by
  induction ps with
  | nil => rfl
  | cons p ps ih =>
    unfold State.drawOne
    split
    · split
      · rw [State.draw_setTx]
      · rfl
    · rw [ih]
end

/-! ### A list of draws in turn (log 20) -/

section
variable (s : State) (l : Fin 8)

theorem State.drawListed_append (cs ds : List (Fin 4 × Fin 4)) (ps : List OpenPacket) : s.drawListed l (cs ++ ds) ps =
    (s.drawListed l cs ps).2.drawListed l ds (s.drawListed l cs ps).1 := by
  induction cs generalizing s ps with
  | nil => rfl
  | cons c cs ih => exact ih ..

theorem State.drawListed_setTx (m : Fin 8) (x : LaneTx) (cs : List (Fin 4 × Fin 4)) (ps : List OpenPacket) :
    (s.setTx m x).drawListed l cs ps = ((s.drawListed l cs ps).1, (s.drawListed l cs ps).2.setTx m x) := by
  induction cs generalizing s ps with
  | nil => rfl
  | cons c cs ih => simp only [State.drawListed, State.drawOne_setTx, ih]

theorem State.drawListed_of_drawn (cs : List (Fin 4 × Fin 4)) {ps : List OpenPacket} (drawn : ∀ p ∈ ps, p.left = []) :
    s.drawListed l cs ps = (ps, s) := by
  induction cs with
  | nil => rfl
  | cons c cs ih => rw [State.drawListed, s.drawOne_of_drawn l c.1 c.2 drawn, ih]

theorem State.drawPackets_of_drawn {ps : List OpenPacket} (drawn : ∀ p ∈ ps, p.left = []) :
    s.drawPackets l ps = (ps, s) := by
  induction ps with
  | nil => rfl
  | cons p ps ih =>
    obtain ⟨none, rest⟩ := List.forall_mem_cons.1 drawn
    have still : s.drawLeft l p = (p, s) := by simp [State.drawLeft, none, State.draws]
    rw [State.drawPackets, still, ih rest]

/-- Draws of other groups leave a packet as it stands. -/
theorem State.drawListed_cons_other {p : OpenPacket} {cs : List (Fin 4 × Fin 4)} (others : ∀ x ∈ cs, p.group ≠ x.1)
    (ps : List OpenPacket) : s.drawListed l cs (p :: ps) = (p :: (s.drawListed l cs ps).1, (s.drawListed l cs ps).2) := by
  induction cs generalizing s ps with
  | nil => rfl
  | cons c cs ih =>
    obtain ⟨other, rest⟩ := List.forall_mem_cons.1 others
    have first := s.drawOne_append l c.2 (ps := [p]) (by simpa using other) ps
    rw [List.singleton_append] at first
    rw [State.drawListed, first]
    exact ih _ rest _

/-- A draw made is one fewer left of its channel. -/
theorem OpenPacket.countP_left_drawn (p : OpenPacket) (c d : Fin 4) (v : Int) :
    (OpenPacket.left { p with drawn := p.drawn ++ [(c, v)] }).countP (· = d) =
      p.left.countP (· = d) - if c = d then 1 else 0 := by
  rw [OpenPacket.countP_left, OpenPacket.countP_left, List.countP_append, List.countP_singleton, Nat.sub_add_eq]
  simp only [decide_eq_true_eq]

/-- As many draws of one packet's channels as it has left, in any order, are draws of their destinations in that order. -/
theorem State.drawListed_packet {p : OpenPacket} {cs : List (Fin 4)}
    (left : ∀ c, cs.countP (· = c) ≤ p.left.countP (· = c)) (ps : List OpenPacket) :
    let drawn := s.draws p.word (cs.map (Dest.lane l p.group))
    s.drawListed l (cs.map fun c => (p.group, c)) (p :: ps) =
      ({ p with drawn := p.drawn ++ cs.zip drawn.1 } :: ps, drawn.2) := by
  induction cs generalizing s p with
  | nil => simp [State.drawListed, State.draws]
  | cons c cs ih =>
    have here : c ∈ p.left := by
      have one := left c
      rw [List.countP_cons_of_pos (by simp)] at one
      simpa using List.countP_pos_iff.1 (Nat.zero_lt_of_lt one)
    have rest : ∀ d, cs.countP (· = d) ≤
        (OpenPacket.left { p with drawn := p.drawn ++ [(c, (s.draw (.lane l p.group c) p.word).1)] }).countP (· = d) := by
      intro d
      have before := left d
      rw [List.countP_cons] at before
      rw [OpenPacket.countP_left_drawn]
      simp only [decide_eq_true_eq] at before
      omega
    simp only [List.map_cons, State.drawListed, s.drawOne_left l here, State.draws]
    refine (ih _ rest).trans ?_
    simp

/-- The draws that a packet has left, each with its group. -/
def OpenPacket.turns (p : OpenPacket) : List (Fin 4 × Fin 4) := p.left.map fun c => (p.group, c)

theorem OpenPacket.turns_eq (p : OpenPacket) : p.turns = (List.range p.sets).flatMap fun i =>
    ([0, 1, 2, 3].filter fun c => p.drawn.countP (fun x => x.1 = c) ≤ i).map fun c => (p.group, c) := List.map_flatMap

/-- All draws listed, group by group and set by set, are all that is left. -/
theorem State.drawListed_turns {ps : List OpenPacket} (groups : (ps.map (·.group)).Nodup) :
    s.drawListed l (ps.flatMap OpenPacket.turns) ps = s.drawPackets l ps := by
  induction ps generalizing s with
  | nil => rfl
  | cons p ps ih =>
    obtain ⟨apart, rest⟩ := List.nodup_cons.1 groups
    have first : s.drawListed l p.turns (p :: ps) = ((s.drawLeft l p).1 :: ps, (s.drawLeft l p).2) :=
      s.drawListed_packet l (fun _ => Nat.le_refl _) ps
    have others : ∀ x ∈ ps.flatMap OpenPacket.turns, (s.drawLeft l p).1.group ≠ x.1 := by
      intro x mem same
      obtain ⟨q, hq, hx⟩ := List.mem_flatMap.1 mem
      obtain ⟨c, -, rfl⟩ := List.mem_map.1 hx
      exact apart (List.mem_map.2 ⟨q, hq, same.symm⟩)
    rw [List.flatMap_cons, State.drawListed_append, first, State.drawListed_cons_other _ l others, ih _ rest]
    rfl
end

/-! ### An open line that goes on (log 20) -/

section
variable {s : State} {l : Fin 8} {line : OpenLine} (opened : (s.tx.get l).line = some line)
include opened

theorem State.goOnLine_listed (cs : List (Fin 4 × Fin 4)) : s.goOnLine l (some cs) =
    (s.drawListed l cs line.packets).2.setTx l
      ((s.tx.get l).withLine { line with packets := (s.drawListed l cs line.packets).1 }) := by
  unfold State.goOnLine
  rw [opened]

/-- With nothing left the line closes, whatever is listed. -/
theorem State.goOnLine_of_drawn (drawn : line.Drawn) (draws : Option (List (Fin 4 × Fin 4))) :
    s.goOnLine l draws = s.setTx l ((s.tx.get l).withLine line) := by
  unfold State.goOnLine
  rw [opened]
  cases draws with
  | none => dsimp only; rw [s.drawPackets_of_drawn l drawn]
  | some cs => dsimp only; rw [s.drawListed_of_drawn l cs drawn]

theorem State.goOnLine_one (c : Fin 4 × Fin 4) : s.goOnLine l (some [c]) =
    (s.drawOne l c.1 c.2 line.packets).2.setTx l
      ((s.tx.get l).withLine { line with packets := (s.drawOne l c.1 c.2 line.packets).1 }) :=
  State.goOnLine_listed opened [c]

/-- The line that a list of draws has left, and the transmitter with it. -/
theorem State.goOnLine_tx (cs : List (Fin 4 × Fin 4)) : (s.goOnLine l (some cs)).tx.get l =
    (s.tx.get l).withLine { line with packets := (s.drawListed l cs line.packets).1 } := by
  rw [State.goOnLine_listed opened, State.setTx_tx, Bank.get_set_self]

/-- What a list of draws has closed stands whatever else is listed. -/
theorem State.goOnLine_append_closed {cs : List (Fin 4 × Fin 4)} (closed : ((s.goOnLine l (some cs)).tx.get l).line = none)
    (ds : List (Fin 4 × Fin 4)) : s.goOnLine l (some (cs ++ ds)) = s.goOnLine l (some cs) := by
  rw [State.goOnLine_tx opened, LaneTx.withLine_line_eq_none] at closed
  rw [State.goOnLine_listed opened, State.goOnLine_listed opened, State.drawListed_append,
    State.drawListed_of_drawn _ l ds closed]

/-- What it has left open goes on with the rest of the list. -/
theorem State.goOnLine_append_open {cs : List (Fin 4 × Fin 4)} (still : ((s.goOnLine l (some cs)).tx.get l).line ≠ none)
    (ds : List (Fin 4 × Fin 4)) :
    s.goOnLine l (some (cs ++ ds)) = (s.goOnLine l (some cs)).goOnLine l (some ds) := by
  have tx := State.goOnLine_tx opened cs
  rw [tx, ne_eq, LaneTx.withLine_line_eq_none] at still
  rw [LaneTx.withLine_of_not_drawn still] at tx
  have rest : ((s.goOnLine l (some cs)).tx.get l).line = some _ := congrArg LaneTx.line tx
  rw [State.goOnLine_listed opened, State.goOnLine_listed rest, State.drawListed_append, tx, State.goOnLine_listed opened,
    State.drawListed_setTx, State.setTx_setTx]
  exact congrArg (State.setTx _ l) (LaneTx.withLine_congr rfl)

/-- All that is left, drawn in its order one by one, is the line drawn whole. -/
theorem State.goOnLine_turns (groups : (line.packets.map (·.group)).Nodup) :
    s.goOnLine l (some (line.packets.flatMap OpenPacket.turns)) = s.goOnLine l none := by
  rw [State.goOnLine_listed opened, State.drawListed_turns s l groups]
  unfold State.goOnLine
  rw [opened]
end

/-! ### A line reached (R142) -/

section
variable (s : State) (l : Fin 8) (n : Nat) (flat : Bool)

theorem State.setTx_reached_line : ((s.setTx l ((s.tx.get l).reached n flat)).tx.get l).line =
    some ((s.tx.get l).openLine ((s.tx.get l).lines + 1) n) := by
  rw [State.setTx_tx, Bank.get_set_self, LaneTx.reached_line]

/-- A line reached with no draw listed stands with nothing drawn. -/
theorem State.reachLine_undrawn : s.reachLine l ⟨n, some []⟩ flat = s.setTx l (({ s.tx.get l with
      lines := (s.tx.get l).lines + 1, flat := flat
      store := (s.tx.get l).store.filter fun p => p.line ≠ n } : LaneTx).withLine
      ((s.tx.get l).openLine ((s.tx.get l).lines + 1) n)) := by
  rw [State.reachLine, State.goOnLine_listed (s.setTx_reached_line l n flat), State.drawListed, State.setTx_setTx,
    State.setTx_tx, Bank.get_set_self]
  exact congrArg (s.setTx l) (LaneTx.withLine_congr rfl)

/-- A line that draws nothing is whole once it is reached. -/
theorem State.reachLine_closed (draws : Option (List (Fin 4 × Fin 4)))
    (closed : ((s.reachLine l ⟨n, some []⟩ flat).tx.get l).line = none) :
    s.reachLine l ⟨n, draws⟩ flat = s.reachLine l ⟨n, some []⟩ flat := by
  rw [State.reachLine_undrawn, State.setTx_tx, Bank.get_set_self, LaneTx.withLine_line_eq_none] at closed
  have whole := State.goOnLine_of_drawn (s.setTx_reached_line l n flat) closed
  exact (whole draws).trans (whole (some [])).symm

/-- Any other goes on from there. -/
theorem State.reachLine_open (draws : Option (List (Fin 4 × Fin 4)))
    (still : ((s.reachLine l ⟨n, some []⟩ flat).tx.get l).line ≠ none) :
    s.reachLine l ⟨n, draws⟩ flat = (s.reachLine l ⟨n, some []⟩ flat).goOnLine l draws := by
  have undrawn := s.reachLine_undrawn l n flat
  rw [undrawn, State.setTx_tx, Bank.get_set_self, ne_eq, LaneTx.withLine_line_eq_none] at still
  rw [undrawn, LaneTx.withLine_of_not_drawn still]
  rfl
end

/-- In a FALLBACK frame no line is reached, or one of a part that the instant has left, with whatever draws. -/
theorem State.reachFallbackLine_cases (s : State) (l : Fin 8) (n : Nat) :
    (∀ draws, s.reachFallbackLine l ⟨n, draws⟩ = s) ∨
    ∃ v : State, v.resetHeld = s.resetHeld ∧
      ∀ draws, s.reachFallbackLine l ⟨n, draws⟩ = v.reachLine l ⟨0, draws⟩ true := by
  by_cases lines : (s.tx.get l).plan.carriage + 2 ≤ (s.tx.get l).lines
  · exact .inl fun draws => State.reachFallbackLine_none _ (.inl lines)
  · have lines := Nat.lt_of_not_le lines
    rcases Nat.lt_trichotomy (s.tx.get l).lineInstant s.ref.emitted with emitted | next | early
    · exact .inr ⟨s, rfl, fun draws => State.reachFallbackLine_emitted draws n lines emitted⟩
    · by_cases left : s.ref.instantLeft = true
      · obtain ⟨-, resetHeld, -⟩ := s.eventOnly_completeInstant
        exact .inr ⟨s.completeInstant.emitInstant, resetHeld, fun draws =>
          State.reachFallbackLine_next draws n lines next left⟩
      · exact .inl fun draws => State.reachFallbackLine_none _ (.inr (.inr ⟨next, left⟩))
    · exact .inl fun draws => State.reachFallbackLine_none _ (.inr (.inl early))

/-! ### The rows of a line whose draws fall in their turn -/

section
variable {s : State} {l : Fin 8} (released : s.resetHeld = false)
include released

/-- While a line is open the row goes on with it. -/
theorem exec_lineReached_open {line : OpenLine} (opened : (s.tx.get l).line = some line) (reach : LineReach) :
    exec (.lineReached l reach) s = .next (s.goOnLine l reach.draws) := by
  rw [exec_lineReached, execLineReached, State.running_released released]
  exact congrArg _ (if_pos (Option.isSome_of_eq_some opened))

theorem exec_flatLineReached_open {line : OpenLine} (opened : (s.tx.get l).line = some line)
    (mode : (s.tx.get l).mode = .follow) (reach : LineReach) :
    exec (.flatLineReached l reach) s = .next (s.goOnLine l reach.draws) := by
  rw [exec_flatLineReached, execFlatLineReached, State.running_released released, mode]
  exact congrArg _ (if_pos (Option.isSome_of_eq_some opened))

theorem exec_lineReached_follow_reaches (closed : (s.tx.get l).line = none) (mode : (s.tx.get l).mode = .follow)
    (reach : LineReach) : exec (.lineReached l reach) s = .next (s.reachLine l reach false) := by
  rw [exec_lineReached, execLineReached, State.running_released released]
  simp [closed, mode]

/-- Where none is open the row reaches none, or one of a part that runs, with whatever draws. -/
theorem exec_lineReached_closed_cases (closed : (s.tx.get l).line = none) (a : Nat) :
    (∀ draws, exec (.lineReached l ⟨a, draws⟩) s = .next s) ∨
    ∃ (v : State) (n : Nat) (flat : Bool), v.resetHeld = false ∧
      ∀ draws, exec (.lineReached l ⟨a, draws⟩) s = .next (v.reachLine l ⟨n, draws⟩ flat) := by
  cases mode : (s.tx.get l).mode with
  | follow => exact .inr ⟨s, a, false, released, fun draws => exec_lineReached_follow_reaches released closed mode _⟩
  | fallback =>
    have row (draws) := exec_lineReached_fallback released closed mode ⟨a, draws⟩
    rcases s.reachFallbackLine_cases l a with none | ⟨v, resetHeld, reached⟩
    · exact .inl fun draws => by rw [row, none]
    · exact .inr ⟨v, 0, true, resetHeld.trans released, fun draws => by rw [row, reached]⟩

/-- A line reached stands first with nothing drawn, and goes on from there unless it is whole. -/
theorem exec_lineReached_splits (closed : (s.tx.get l).line = none) (a : Nat)
    (draws : Option (List (Fin 4 × Fin 4))) : ∃ u, exec (.lineReached l ⟨a, some []⟩) s = .next u ∧
      ((u.tx.get l).line = none → exec (.lineReached l ⟨a, draws⟩) s = .next u) ∧
      ((u.tx.get l).line ≠ none → exec (.lineReached l ⟨a, draws⟩) s = exec (.lineReached l ⟨a, draws⟩) u) := by
  rcases exec_lineReached_closed_cases released closed a with none | ⟨v, n, flat, runs, row⟩
  · exact ⟨s, none _, fun _ => none _, fun opened => absurd closed opened⟩
  · refine ⟨_, row _, fun whole => ?_, fun opened => ?_⟩
    · rw [row, v.reachLine_closed l n flat draws whole]
    · obtain ⟨line, standing⟩ := Option.ne_none_iff_exists'.1 opened
      obtain ⟨-, resetHeld, -⟩ := v.eventOnly_reachLine l ⟨n, some []⟩ flat
      rw [row, v.reachLine_open l n flat draws opened, exec_lineReached_open (resetHeld.trans runs) standing]

/-- A list of draws on an open line is its first and then, while the line stands open, the others. -/
theorem exec_lineReached_cons {line : OpenLine} (opened : (s.tx.get l).line = some line) (a : Nat) (c : Fin 4 × Fin 4)
    (cs : List (Fin 4 × Fin 4)) : ∃ u, exec (.lineReached l ⟨a, some [c]⟩) s = .next u ∧
      ((u.tx.get l).line = none → exec (.lineReached l ⟨a, some (c :: cs)⟩) s = .next u) ∧
      ((u.tx.get l).line ≠ none → exec (.lineReached l ⟨a, some (c :: cs)⟩) s = exec (.lineReached l ⟨a, some cs⟩) u) := by
  have row (draws) := exec_lineReached_open released opened ⟨a, draws⟩
  refine ⟨_, row _, fun whole => ?_, fun still => ?_⟩
  · rw [row]
    exact congrArg _ (State.goOnLine_append_closed opened whole cs)
  · obtain ⟨left, standing⟩ := Option.ne_none_iff_exists'.1 still
    obtain ⟨-, resetHeld, -⟩ := s.eventOnly_goOnLine l (some [c])
    rw [row, exec_lineReached_open (resetHeld.trans released) standing]
    exact congrArg _ (State.goOnLine_append_open opened still cs)

/-- One draw on an open line, by what the draw makes of its packets. -/
theorem exec_lineReached_one {line : OpenLine} (opened : (s.tx.get l).line = some line) (a : Nat) {g c : Fin 4}
    {ps : List OpenPacket} {t : State} (drawn : s.drawOne l g c line.packets = (ps, t)) :
    exec (.lineReached l ⟨a, some [(g, c)]⟩) s =
      .next { t with tx := s.tx.set l ((s.tx.get l).withLine { line with packets := ps }) } := by
  have tx : t.tx = s.tx := by simpa [drawn] using (s.tableOnly_drawOne l g c line.packets).tx
  rw [exec_lineReached_open released opened, State.goOnLine_one opened, drawn, State.setTx, tx]
end

/-- Settles O19: a line reached stands with nothing drawn; then each draw, list of draws and end of a line by what it makes
of the line's packets. -/
theorem lineDrawsFallInTheirTurn : Obligations.LineDrawsFallInTheirTurn := by
  intro s l a released tx
  refine ⟨fun draws closed => exec_lineReached_splits released closed a draws, fun closed mode => ?reached,
    fun line opened => ⟨fun mode reach => ?flat, fun ps p qs c packets others => ⟨fun next => ?drawn, fun made => ?made⟩,
      fun g c others => ?absent, exec_lineReached_cons released opened a, ⟨?whole, ?closes, fun groups => ?turns⟩,
      fun ⟨p, mem, c, next⟩ => ?stands, fun made => ?filled⟩⟩
  case reached =>
    rw [exec_lineReached_follow_reaches released closed mode, State.reachLine_undrawn]
    rfl
  case flat =>
    rw [exec_flatLineReached_open released opened mode, exec_lineReached_open released opened]
  case drawn =>
    have drawn := s.drawOne_append l c others (p :: qs)
    rw [s.drawOne_left l (OpenPacket.mem_left.2 next), ← packets] at drawn
    exact exec_lineReached_one released opened a drawn
  case made =>
    have drawn := s.drawOne_append l c others (p :: qs)
    rw [s.drawOne_made l (fun left => Nat.not_lt.2 made (OpenPacket.mem_left.1 left)), ← packets] at drawn
    exact exec_lineReached_one released opened a drawn
  case absent => exact exec_lineReached_one released opened a (s.drawOne_absent l c others)
  case whole => exact exec_lineReached_open released opened ⟨a, none⟩
  case closes => exact (s.linesOnly_finishLine l).2
  case turns =>
    rw [exec_lineReached_open released opened, exec_lineReached_open released opened]
    simp only [← OpenPacket.turns_eq]
    exact congrArg _ (State.goOnLine_turns opened groups).symm
  case stands =>
    refine LaneTx.withLine_of_not_drawn fun drawn => ?_
    have left := OpenPacket.mem_left.2 next
    rw [drawn p mem] at left
    cases left
  case filled => exact LaneTx.withLine_of_drawn fun p mem => OpenPacket.left_eq_nil (made p mem)

end Sys2Proof.Machine
end

section
/-! Arrivals, losses and returns of sources as one record takes them (spec 06 sections 6.2 and 6.6): what each makes of an
entry by its phase, and of the gain fields. -/

namespace Sys2Proof.Machine

/-! ### An entry at an arrival (R101, R102) -/

section
variable {t : Track} {e : Entry} {depth : Nat}

/-- An entry that keeps lag gains one sample of it, up to the window's 16. -/
theorem Track.entryArrival_keepsLag (keeps : t.keepsLag e = true) :
    t.entryArrival depth e = { e with lag := if e.lag < 16 then e.lag + 1 else 16 } := by
  have raised : min (e.lag + 1) Config.windowSize = if e.lag < 16 then e.lag + 1 else 16 := by
    simp only [Config.windowSize]
    split <;> omega
  rw [Track.entryArrival, if_pos keeps, raised]

/-- An entry that fills becomes ACTIVE, in its manner, when the depth has come to 8. -/
theorem Track.entryArrival_fills (fills : e.phase.manner = some .filling) : t.entryArrival depth e =
    if depth = 8 then { e with phase := e.phase.withManner .active, lag := 8 } else e := by
  have keeps : t.keepsLag e = false := by simp [Track.keepsLag, fills]
  rw [Track.entryArrival, if_neg (Bool.eq_false_iff.1 keeps)]
  refine if_congr ?_ rfl rfl
  rw [fills]
  exact decide_eq_true_iff

theorem Track.entryArrival_joining (joins : e.phase = .joining) : t.entryArrival depth e = e := by
  have keeps : t.keepsLag e = false := by simp [Track.keepsLag, joins, Phase.manner]
  simp [Track.entryArrival, keeps, joins, Phase.manner]
end

/-- Settles O42: each entry that the arrival reaches by its phase; an effective source reached is not NONE, so that an entry
in the manner ACTIVE keeps lag. -/
theorem arrivalsRaiseLagAndFill : Obligations.ArrivalsRaiseLagAndFill := by
  intro t into depth none
  refine ⟨List.map_congr_left fun e _ => ?entry, ?slipped, rfl⟩
  case entry =>
    split
    · next reached =>
      have sounds : t.effective e ≠ .none := fun silent => by simp [silent, none] at reached
      cases phase : e.phase with
      | joining => exact Track.entryArrival_joining phase
      | filling => rw [Track.entryArrival_fills (by rw [phase]; rfl), phase]; rfl
      | active => rw [Track.entryArrival_keepsLag (t.keepsLag_iff e |>.2 ⟨.inl phase, sounds⟩), phase]
      | leaving m =>
        cases m with
        | filling => rw [Track.entryArrival_fills (by rw [phase]; rfl), phase]; rfl
        | active => rw [Track.entryArrival_keepsLag (t.keepsLag_iff e |>.2 ⟨.inr phase, sounds⟩), phase]
    · rfl
  case slipped =>
    rw [← Track.slipsOnArrival_iff_of_none none]
    exact Bool.or_eq_true_iff

/-! ### A record at a loss (R108, R109, R120) -/

/-- A loss sends what is not JOINING to FILLING, in its manner, with no lag; what fills already and leaves stands. -/
theorem Entry.lose_fills {e : Entry} (joined : e.phase ≠ .joining) (drains : e.phase ≠ .leaving .filling) :
    e.lose = { e with phase := e.phase.withManner .filling, lag := 0 } := by
  unfold Entry.lose
  split
  · contradiction
  · contradiction
  · rfl

theorem Entry.lose_joining {e : Entry} (joins : e.phase = .joining) : e.lose = e := by
  unfold Entry.lose
  rw [joins]

theorem Entry.lose_drains {e : Entry} (drains : e.phase = .leaving .filling) : e.lose = e := by
  unfold Entry.lose
  rw [drains]

/-- A loss of the current source cuts the record (R108); its other fields stand. -/
theorem Track.lose_eq (t : Track) (gone : Source → Bool) : t.lose gone = { t with
    entries := (t.lose gone).entries, sourceLost := t.sourceLost || gone t.source
    gainNow := if gone t.source then 0 else t.gainNow, ramp := if gone t.source then none else t.ramp } := by
  unfold Track.lose
  cases gone t.source with
  | true => simp [Track.cut]
  | false => simp

/-! ### A record at a return (R110, R121) -/

/-- The record as a return of its current source leaves it but for gain now and the ramp. -/
def Track.sourceReturned (t : Track) (view : SourceView) (back : Source → Bool) : Track :=
  { t with entries := t.entries.map (t.entryBack view back), sourceLost := false }

theorem Track.target_sourceReturned (t : Track) (view : SourceView) (back : Source → Bool) :
    (t.sourceReturned view back).target = if t.muted then 0 else t.setGain := by
  simp [Track.sourceReturned, Track.target]

section
variable {t : Track} {view : SourceView} {R : Nat} {back : Source → Bool} {e : Entry} {src : Source}

/-- On a source of depth 0 an entry starts FILLING, in its manner (R77). -/
theorem Entry.start_empty (sounds : src ≠ .none) (empty : view src = some 0) :
    e.start view src = { e with phase := e.phase.withManner .filling, lag := 0 } := by
  have filling : view.startOn src = (.filling, 0) := by simp [SourceView.startOn_eq, sounds, empty]
  rw [Entry.start, filling]

theorem Track.entryBack_starts (returned : back (t.effective e) = true) (joined : e.phase ≠ .joining) :
    t.entryBack view back e = e.start view (t.effective e) := by
  simp [Track.entryBack, returned, Phase.isJoining, joined]

theorem Track.entryBack_stands (stands : back (t.effective e) = false ∨ e.phase = .joining) :
    t.entryBack view back e = e := by
  rcases stands with other | joins
  · simp [Track.entryBack, other]
  · simp [Track.entryBack, joins, Phase.isJoining]

/-- A return of other sources than the current one moves entries only. -/
theorem Track.comeBack_elsewhere (other : back t.source = false) :
    t.comeBack view R back = { t with entries := t.entries.map (t.entryBack view back) } := by
  unfold Track.comeBack
  rw [other]
  rfl

/-- A return of the current source clears source lost, and the gain fields follow R119. -/
theorem Track.comeBack_regains (returned : back t.source = true) :
    t.comeBack view R back = Track.regain t (t.sourceReturned view back) R := by
  unfold Track.comeBack
  rw [returned]
  rfl

/-- A lost and silent record whose source returns fades in, or jumps where the ramp length is 0 (R121). -/
theorem Track.comeBack_fadesIn (returned : back t.source = true) (lost : t.sourceLost = true) (silent : t.gainNow = 0)
    (ramp : t.ramp = none) : t.comeBack view R back = { t with
      entries := (t.comeBack view R back).entries, sourceLost := false
      gainNow := if R = 0 ∧ t.muted = false then t.setGain else 0
      ramp := if t.muted = true ∨ t.setGain = 0 ∨ R = 0 then none else some ⟨0, t.setGain, R, 0⟩ } := by
  obtain ⟨gainNow, ramp⟩ :=
    Track.regain_from_silence (old := t) (t := t.sourceReturned view back) (R := R) rfl (Track.target_lost lost) silent ramp
  rw [Track.comeBack_entries, Track.comeBack_regains returned, Track.regain_gain_eq, gainNow, ramp,
    Track.target_sourceReturned]
  cases muted : t.muted <;> simp [Track.sourceReturned, muted]
end

/-- Settles O43: losses and returns take each entry by its phase, and the gain fields as the current source is concerned. -/
theorem lossAndReturnMoveTheTrack : Obligations.LossAndReturnMoveTheTrack := by
  refine ⟨fun t gone => ⟨?lost, t.lose_eq gone⟩,
    fun t view R back none empty => ⟨?returned, fun other => ?elsewhere, Track.comeBack_fadesIn⟩⟩
  case lost =>
    rw [Track.lose_entries]
    refine List.map_congr_left fun e _ => ite_congr rfl (fun _ => ?_) fun _ => rfl
    cases phase : e.phase with
    | joining => exact Entry.lose_joining phase
    | filling | active => rw [Entry.lose_fills (by simp [phase]) (by simp [phase]), phase]; rfl
    | leaving m =>
      cases m with
      | filling => exact Entry.lose_drains phase
      | active => rw [Entry.lose_fills (by simp [phase]) (by simp [phase]), phase]; rfl
  case returned =>
    rw [Track.comeBack_entries]
    refine List.map_congr_left fun e _ => ?_
    split
    · next reached =>
      have sounds : t.effective e ≠ .none := fun silent => by simp [silent, none] at reached
      have restarts (joined : e.phase ≠ .joining) :
          t.entryBack view back e = { e with phase := e.phase.withManner .filling, lag := 0 } := by
        rw [Track.entryBack_starts reached joined, Entry.start_empty sounds (empty _ reached)]
      cases phase : e.phase with
      | joining => exact Track.entryBack_stands (.inr phase)
      | filling | active | leaving _ => rw [restarts (by simp [phase]), phase]; rfl
    · next other => exact Track.entryBack_stands (.inl (Bool.eq_false_iff.2 other))
  case elsewhere =>
    rw [Track.comeBack_entries, Track.comeBack_elsewhere other]

end Sys2Proof.Machine
end

section
/-! Events of the feeds, the reference, the ramps, the transmitters and the console (spec 00 section 2): what only commands
and the port change stands (R117, R164, R167). -/

namespace Sys2Proof.Machine

/-- Held in reset or not, an event leaves what its own work leaves. -/
theorem State.eventOnly_running {s t : State} {event : State → State} (h : s.EventOnly (event s))
    (ran : s.running event = .next t) : s.EventOnly t := by
  unfold State.running at ran
  split at ran <;> cases ran
  · exact .refl s
  · exact h

theorem State.eventOnly_elapse (s : State) (after : Nat) : s.EventOnly (s.elapse after) := .refl s

theorem State.eventOnly_reach (s : State) (due : Nat) : s.EventOnly (s.reach due) := .refl s

/-- An event that carries signal is no way of control, whichever it is. -/
theorem eventOnly_exec_of_isSignal {c : Instr} {s t : State} (signal : isSignal c = true) (ran : exec c s = .next t) :
    s.EventOnly t := by
  cases c with
  | houseSwitchLine lines after =>
    dsimp only [exec, execHouseSwitchLine] at ran
    refine State.eventOnly_running ?_ ran
    split
    · exact (s.eventOnly_elapse after).trans
        ((State.eventOnly_sourceSwitchLine ..).trans (State.eventOnly_reportReference ..))
    · exact s.eventOnly_elapse after
  | houseLost =>
    dsimp only [exec, execHouseLost] at ran
    refine State.eventOnly_running ?_ ran
    split
    · exact (s.eventOnly_reach _).trans ((State.eventOnly_sourceLoss _).trans (State.eventOnly_reportReference ..))
    · exact .refl s
  | referenceFrameStart =>
    dsimp only [exec, execReferenceFrameStart] at ran
    refine State.eventOnly_running ?_ ran
    split
    · exact .refl s
    · exact (s.eventOnly_reach _).trans
        ((State.eventOnly_beginReferenceFrame _).trans (State.eventOnly_reportReference ..))
  | referenceSampleInstant early =>
    dsimp only [exec, execReferenceSampleInstant] at ran
    refine State.eventOnly_running ?_ ran
    split
    · exact s.eventOnly_workInstant early
    · split
      · exact s.eventOnly_emitInstant.trans (State.eventOnly_workInstant _ early)
      · exact .refl s
  | rampReachesTarget label =>
    dsimp only [exec, execRampReachesTarget] at ran
    refine State.eventOnly_running ?_ ran
    split
    · exact .refl s
    · split
      · exact (s.tableOnly_with _).eventOnly
      · exact .refl s
  | consoleFrameTaken bytes =>
    dsimp only [exec, execConsoleFrameTaken] at ran
    exact State.eventOnly_running (s.eventOnly_takeConsoleFrame bytes) ran
  | laneSwitchLine l lines after =>
    dsimp only [exec, execLaneSwitchLine] at ran
    exact State.eventOnly_running ((s.eventOnly_elapse after).trans
      ((State.eventOnly_laneSwitchLine _ l lines).trans (State.eventOnly_reportReference ..))) ran
  | laneFeedLost l =>
    dsimp only [exec, execLaneFeedLost] at ran
    refine State.eventOnly_running ?_ ran
    split
    · exact .refl s
    · exact (s.eventOnly_reach _).trans ((State.eventOnly_laneLoss _ l).trans (State.eventOnly_reportReference ..))
  | packetTaken l line bytes =>
    dsimp only [exec, execPacketTaken] at ran
    refine State.eventOnly_running ?_ ran
    split
    · exact s.eventOnly_takePacket l line _
    · exact .refl s
  | packetCutOff l line bytes =>
    dsimp only [exec, execPacketCutOff] at ran
    refine State.eventOnly_running ?_ ran
    split
    · exact s.eventOnly_setRx l _
    · exact .refl s
  | countFieldDamaged l line bytes =>
    dsimp only [exec, execCountFieldDamaged] at ran
    refine State.eventOnly_running ?_ ran
    split
    · exact s.eventOnly_setRx l _
    · exact .refl s
  | outgoingFrameStart l =>
    dsimp only [exec, execOutgoingFrameStart] at ran
    exact State.eventOnly_running (s.eventOnly_handedFrameStart l) ran
  | lineReached l line =>
    dsimp only [exec, execLineReached] at ran
    refine State.eventOnly_running ?_ ran
    split
    · exact s.eventOnly_goOnLine l _
    · split
      · exact s.eventOnly_reachLine l line false
      · exact s.eventOnly_reachFallbackLine l line
  | flatLineReached l line =>
    dsimp only [exec, execFlatLineReached] at ran
    refine State.eventOnly_running ?_ ran
    split
    · split
      · exact s.eventOnly_goOnLine l _
      · exact s.eventOnly_reachLine l line true
    · exact .refl s
  | _ => cases signal

/-- Settles O3: reset line, gain stage, port and selectors stand, and requests are at most set. -/
theorem signalsAreNoWaysOfControl : Obligations.SignalsAreNoWaysOfControl := by
  intro c s t signal ran
  obtain ⟨-, resetHeld, gain, port, selectorA, selectorB, threshold, requestA, requestB⟩ :=
    eventOnly_exec_of_isSignal signal ran
  exact ⟨resetHeld, gain, port, selectorA, selectorB, threshold, requestA, requestB⟩

end Sys2Proof.Machine
end

section
/-! SETUP (spec 07 section 7.2, 09 section 9.2): five fields with their clamps, or none (R118, R165, R176, R178). -/

namespace Sys2Proof.Machine

/-! ### The codes in range (R115, R160, R162) -/

theorem toNat_roundingByte_le (m : Rounding) : (roundingByte (some m)).toNat ≤ 2 := by cases m <;> decide

theorem toNat_selectorAByte_le (a : Option Occurrence) : (selectorAByte a).toNat ≤ 5 := by
  cases a with
  | none => decide
  | some o => cases o <;> decide

theorem SelectorB.toNat_code_le (b : SelectorB) : b.code.toNat ≤ 2 := by cases b <;> decide

/-! ### The fields read -/

section
variable {r1 r0 m a b t1 t0 : Byte} {rest : List Byte}

theorem readSetup_eq_some_iff {r : SetupRequest} : readSetup (r1 :: r0 :: m :: a :: b :: t1 :: t0 :: rest) = some r ↔
    m = roundingByte (some r.rounding) ∧ a = selectorAByte r.selectorA ∧ b = r.selectorB.code ∧
    r.rampLength = min (nat16 r1 r0) 4096 ∧ r.threshold = min (nat16 t1 t0) 256 := by
  simp only [readSetup, Option.bind_eq_bind, Option.bind_eq_some_iff, Option.pure_def, Option.some.injEq,
    readDefaultRounding_eq_some_iff, readSelectorA_eq_some_iff, readSelectorB_eq_some_iff]
  constructor
  · rintro ⟨_, rounding, _, selectorA, _, selectorB, rfl⟩
    exact ⟨rounding, selectorA, selectorB, rfl, rfl⟩
  · obtain ⟨R, mode, A, B, T⟩ := r
    rintro ⟨rounding, selectorA, selectorB, rfl, rfl⟩
    exact ⟨mode, rounding, A, selectorA, B, selectorB, rfl⟩

/-- One code out of its range and SETUP reads nothing. -/
theorem readSetup_eq_none (out : 2 < m.toNat ∨ 5 < a.toNat ∨ 2 < b.toNat) :
    readSetup (r1 :: r0 :: m :: a :: b :: t1 :: t0 :: rest) = none := by
  refine Option.eq_none_iff_forall_ne_some.2 fun r read => ?_
  obtain ⟨rfl, rfl, rfl, -, -⟩ := readSetup_eq_some_iff.1 read
  have rounding := toNat_roundingByte_le r.rounding
  have selectorA := toNat_selectorAByte_le r.selectorA
  have selectorB := r.selectorB.toNat_code_le
  omega
end

/-- SETUP as sent reads back with ramp length and threshold clamped. -/
theorem readSetup_clamps {R T : Nat} (ramp : R ≤ 65535) (threshold : T ≤ 65535) (m : Rounding) (a : Option Occurrence)
    (b : SelectorB) (rest : List Byte) :
    readSetup (bytes16 R ++ [roundingByte (some m), selectorAByte a, b.code] ++ bytes16 T ++ rest) =
      some ⟨min R 4096, m, a, b, min T 256⟩ :=
  readSetup_eq_some_iff.2 ⟨rfl, rfl, rfl, by rw [nat16_bytes16 ramp], by rw [nat16_bytes16 threshold]⟩

/-- A SETUP that reads stores its fields, leaves the requests and is done (R118, R165). -/
theorem exec_setup_of_read {s : State} {params : List Byte} {r : SetupRequest} (takes : s.takes params)
    (read : readSetup params = some r) : exec (.setup params) s =
      .next ({ s with
        gain := ⟨r.rampLength, r.rounding⟩
        attn := ⟨r.selectorA, r.selectorB, r.threshold, s.attn.requestA, s.attn.requestB⟩ }.replied .setup .done []) := by
  have executes : exec (.setup params) s = .next (s.closePort.doSetup params) := exec_row_takes takes .setup
  rw [executes, State.doSetup, read]
  rfl

/-- Settles O15: what SETUP reads it stores, and a code out of range leaves it nothing to read. -/
theorem setupStoresItsFiveFields : Obligations.SetupStoresItsFiveFields :=
  ⟨fun _ _ _ m a b rest ramp threshold takes => exec_setup_of_read takes (readSetup_clamps ramp threshold m a b rest),
    fun _ _ _ _ _ _ _ _ _ takes out =>
      exec_row_unread (c := .setup) takes (Option.isNone_iff_eq_none.2 (readSetup_eq_none out))⟩

end Sys2Proof.Machine
end

section
/-! Rounding and shaping (spec 07 section 7.6): each mode by what its quotient is, and the shaped value by inversion, gain,
rounding and limit (R128 to R132). -/

namespace Sys2Proof.Machine

/-! ### The rounding modes (R130) -/

section
variable {p d : Int}

/-- From 0 up, TOWARD_ZERO is FLOOR. -/
theorem Rounding.divide_towardZero_of_nonneg (up : 0 ≤ p) : Rounding.towardZero.divide p d = Rounding.floor.divide p d :=
  Int.tdiv_eq_ediv_of_nonneg up

/-- TOWARD_ZERO treats a product and its negation alike. -/
theorem Rounding.divide_towardZero_neg : Rounding.towardZero.divide (-p) d = -Rounding.towardZero.divide p d :=
  Int.neg_tdiv ..

variable (pos : 0 < d)
include pos

/-- FLOOR: the largest integer not above the quotient. -/
theorem Rounding.divide_floor_bounds :
    d * Rounding.floor.divide p d ≤ p ∧ p < d * (Rounding.floor.divide p d + 1) := by
  rw [Int.mul_add, Int.mul_one]
  exact ⟨Int.mul_ediv_self_le (Int.ne_of_gt pos), Int.lt_mul_ediv_self_add pos⟩

theorem Rounding.divide_towardZero_bounds_nonneg (up : 0 ≤ p) :
    d * Rounding.towardZero.divide p d ≤ p ∧ p < d * (Rounding.towardZero.divide p d + 1) := by
  rw [Rounding.divide_towardZero_of_nonneg up]
  exact Rounding.divide_floor_bounds pos

theorem Rounding.divide_towardZero_bounds_nonpos (down : p ≤ 0) :
    p ≤ d * Rounding.towardZero.divide p d ∧ d * (Rounding.towardZero.divide p d - 1) < p := by
  obtain ⟨below, above⟩ := Rounding.divide_towardZero_bounds_nonneg pos (Int.neg_nonneg.2 down)
  rw [Rounding.divide_towardZero_neg] at below above
  constructor <;> linarith

/-- NEAREST_EVEN: at most half the divisor away, and even where it is half the divisor away. -/
theorem Rounding.divide_nearestEven_near : |2 * (p - d * Rounding.nearestEven.divide p d)| ≤ d ∧
    (|2 * (p - d * Rounding.nearestEven.divide p d)| = d → Rounding.nearestEven.divide p d % 2 = 0) := by
  have whole : p - d * (p / d) = p % d := (Int.emod_def p d).symm
  have next : p - d * (p / d + 1) = p % d - d := by rw [← whole]; ring
  have low : 0 ≤ p % d := Int.emod_nonneg p (Int.ne_of_gt pos)
  unfold Rounding.divide
  dsimp only
  split_ifs with below above even
  · rw [whole, abs_of_nonneg (by omega)]
    omega
  · rw [next, abs_of_nonpos (by have := Int.emod_lt_of_pos p pos; omega)]
    omega
  · rw [whole, abs_of_nonneg (by omega)]
    omega
  · rw [next, abs_of_nonpos (by omega)]
    omega

/-- Every mode keeps a quotient that is whole. -/
theorem Rounding.divide_mul_self (mode : Rounding) (q : Int) : mode.divide (q * d) d = q := by
  have whole : q * d / d = q := Int.mul_ediv_cancel q (Int.ne_of_gt pos)
  cases mode with
  | floor => exact whole
  | towardZero => exact Int.mul_tdiv_cancel q (Int.ne_of_gt pos)
  | nearestEven =>
    have below : 2 * (q * d % d) < d := by rwa [Int.mul_emod_left, Int.mul_zero]
    exact (if_pos below).trans whole
end

/-- Settles O38: each mode by its quotient's distance, and the two divisors (R129, R130). -/
theorem roundingModesRound : Obligations.RoundingModesRound :=
  ⟨fun _ _ pos => ⟨Rounding.divide_floor_bounds pos, Rounding.divide_towardZero_bounds_nonneg pos,
    Rounding.divide_towardZero_bounds_nonpos pos, Rounding.divide_nearestEven_near pos⟩, rfl, rfl⟩

/-! ### Inversion (R128) -/

theorem toInt_sample_mem (x : Sample) : -8388608 ≤ x.toInt ∧ x.toInt ≤ 8388607 := by
  have low := x.le_toInt
  have high := x.toInt_lt
  omega

theorem invertSample_false (x : Sample) : invertSample false x = x.toInt := rfl

theorem invertSample_true_of_ne {x : Sample} (other : x.toInt ≠ -8388608) : invertSample true x = -x.toInt :=
  (if_pos rfl).trans (if_neg other)

theorem invertSample_true_lowest {x : Sample} (lowest : x.toInt = -8388608) : invertSample true x = 8388607 :=
  (if_pos rfl).trans (if_pos lowest)

/-- Inverted or not, a sample stays in the range of 24 bits (R128). -/
theorem invertSample_mem (inverted : Bool) (x : Sample) :
    -8388608 ≤ invertSample inverted x ∧ invertSample inverted x ≤ 8388607 := by
  obtain ⟨low, high⟩ := toInt_sample_mem x
  cases inverted with
  | false => exact ⟨low, high⟩
  | true =>
    by_cases lowest : x.toInt = -8388608
    · rw [invertSample_true_lowest lowest]
      decide
    · rw [invertSample_true_of_ne lowest]
      omega

/-! ### The limit (R131) -/

theorem WordLength.limit_eq_self {w : WordLength} {v : Int} (low : w.lowest ≤ v) (high : v ≤ w.highest) :
    w.limit v = v := by
  rw [WordLength.limit, min_eq_left high, max_eq_right low]

/-- A value that the limit changes becomes an end of the range. -/
theorem WordLength.limit_eq_end {w : WordLength} {v : Int} (changed : w.limit v ≠ v) :
    w.limit v = w.lowest ∨ w.limit v = w.highest := by
  unfold WordLength.limit at changed ⊢
  omega

/-! ### The shaped value (R128 to R132) -/

section
variable {t : Track} {device : Rounding} {w : WordLength} {x : Sample}

theorem Track.clips_eq_false_iff : t.clips device w x = false ↔
    t.shape device w x = (t.mode device).divide (invertSample t.inverted x * t.gainNow) w.divisor := bne_eq_false_iff_eq

theorem Track.clips_eq_true_iff : t.clips device w x = true ↔
    w.limit (scaleSample t.inverted t.gainNow (t.mode device) w x) ≠
      scaleSample t.inverted t.gainNow (t.mode device) w x := bne_iff_ne

theorem WordLength.divisor_pos (w : WordLength) : 0 < w.divisor := by cases w <;> decide

/-- At unity and 24 bits only the inversion acts (R128, R129). -/
theorem Track.shape_unity (unity : t.gainNow = 16384) :
    t.shape device .w24 x = invertSample t.inverted x ∧ t.clips device .w24 x = false := by
  have rounded : (t.mode device).divide (invertSample t.inverted x * t.gainNow) WordLength.w24.divisor =
      invertSample t.inverted x := by
    rw [unity]
    exact Rounding.divide_mul_self WordLength.w24.divisor_pos ..
  obtain ⟨low, high⟩ := invertSample_mem t.inverted x
  have shaped : t.shape device .w24 x = invertSample t.inverted x := by
    rw [Track.shape, scaleSample, rounded, WordLength.limit_eq_self low high]
  exact ⟨shaped, Track.clips_eq_false_iff.2 (shaped.trans rounded.symm)⟩
end

/-- Settles O39: the limit gives the range, and whole quotients inside it pass unchanged. -/
theorem shapedSamplesLieInRange : Obligations.ShapedSamplesLieInRange := by
  refine ⟨fun t device w x => ⟨w.limit_mem _, Track.clips_eq_false_iff, t.shape_zero device w, fun unity plain => ?plain,
      fun clips => WordLength.limit_eq_end (Track.clips_eq_true_iff.1 clips)⟩,
    fun x => ⟨invertSample_false x, invertSample_true_of_ne, invertSample_true_lowest, invertSample_mem true x⟩,
    fun t device x unity inverted => ?inverted, State.draw_mem⟩
  case plain =>
    have passed := Track.shape_unity (device := device) (x := x) unity
    rwa [plain] at passed
  case inverted =>
    have passed := Track.shape_unity (device := device) (x := x) unity
    rw [inverted] at passed
    exact passed.symm

end Sys2Proof.Machine
end

section
/-! Ramps (spec 07 section 7.4): the values of G(k), one step of a record's ramp, and the row RAMP_REACHES_TARGET (R122,
R124; log 7). -/

namespace Sys2Proof.Machine

/-! ### The values of a ramp (R122, R124) -/

/-- Up to the last step the formula of R122 gives no negative value, so that G(k) is the formula's. -/
theorem Ramp.gainAt_eq (r : Ramp) {k : Nat} (pos : 0 < r.length) (within : k ≤ r.length) :
    (r.gainAt k : Int) = r.start + Int.tdiv (((r.target : Int) - r.start) * k) r.length := by
  have whole : (0 : Int) < r.length := Int.natCast_pos.2 pos
  have steps : (k : Int) ≤ r.length := Int.ofNat_le.2 within
  have least : -(r.start : Int) * r.length ≤ ((r.target : Int) - r.start) * k := by nlinarith
  have trunc := Int.tdiv_le_tdiv whole least
  rw [Int.mul_tdiv_cancel _ (Int.ne_of_gt whole)] at trunc
  exact Int.toNat_of_nonneg (by omega)

/-- The last step reaches the target. -/
theorem Ramp.gainAt_length {r : Ramp} (pos : 0 < r.length) : r.gainAt r.length = r.target := by
  rcases Nat.le_total r.start r.target with up | down
  · obtain ⟨d, rise⟩ := Nat.exists_eq_add_of_le up
    rw [Ramp.gainAt_up rise, Nat.mul_div_cancel d pos, rise]
  · obtain ⟨d, fall⟩ := Nat.exists_eq_add_of_le down
    rw [Ramp.gainAt_down fall, Nat.mul_div_cancel d pos, fall, Nat.add_sub_cancel]

theorem Ramp.gainAt_mono {r : Ramp} (up : r.start ≤ r.target) {j k : Nat} (le : j ≤ k) : r.gainAt j ≤ r.gainAt k := by
  obtain ⟨d, rise⟩ := Nat.exists_eq_add_of_le up
  rw [Ramp.gainAt_up rise, Ramp.gainAt_up rise]
  exact Nat.add_le_add_left (Nat.div_le_div_right (Nat.mul_le_mul_left d le)) _

theorem Ramp.gainAt_anti {r : Ramp} (down : r.target ≤ r.start) {j k : Nat} (le : j ≤ k) : r.gainAt k ≤ r.gainAt j := by
  obtain ⟨d, fall⟩ := Nat.exists_eq_add_of_le down
  rw [Ramp.gainAt_down fall, Ramp.gainAt_down fall]
  exact Nat.sub_le_sub_left (Nat.div_le_div_right (Nat.mul_le_mul_left d le)) _

/-! ### One step (R122) -/

section
variable {t : Track} {r : Ramp}

theorem Track.stepRamp_none (none : t.ramp = none) : t.stepRamp = t := by
  unfold Track.stepRamp
  rw [none]

/-- A step before the last. -/
theorem Track.stepRamp_early (ramp : t.ramp = some r) (early : r.elapsed + 1 < r.length) : t.stepRamp =
    { t with gainNow := r.gainAt (r.elapsed + 1), ramp := some { r with elapsed := r.elapsed + 1 } } := by
  unfold Track.stepRamp
  rw [ramp]
  exact if_neg (Nat.not_le.2 early)

/-- The last step. -/
theorem Track.stepRamp_last (ramp : t.ramp = some r) (last : r.elapsed + 1 = r.length) :
    t.stepRamp = { t with gainNow := r.target, ramp := none } := by
  unfold Track.stepRamp
  rw [ramp]
  exact if_pos last.ge

/-- Any step of a ramp that runs, as one: the next value of G, and the ramp while it still runs. -/
theorem Track.stepRamp_running (ramp : t.ramp = some r) (runs : r.elapsed < r.length) : t.stepRamp =
    { t with
      gainNow := r.gainAt (r.elapsed + 1)
      ramp := if r.elapsed + 1 = r.length then none else some { r with elapsed := r.elapsed + 1 } } := by
  by_cases last : r.elapsed + 1 = r.length
  · rw [Track.stepRamp_last ramp last, if_pos last, last, Ramp.gainAt_length (Nat.zero_lt_of_lt runs)]
  · rw [Track.stepRamp_early ramp (Nat.lt_of_le_of_ne runs last), if_neg last]

theorem Track.lastStepDue_iff : t.lastStepDue = true ↔ ∃ r, t.ramp = some r ∧ r.length = r.elapsed + 1 := by
  simp [Track.lastStepDue, Option.any_eq_true]
end

/-! ### The row RAMP_REACHES_TARGET (log 7) -/

section
variable {s : State} {label : Nat} (released : s.resetHeld = false)
include released

theorem exec_rampReachesTarget_unknown (unknown : s.table.lookup label = none) :
    exec (.rampReachesTarget label) s = .next s := by
  dsimp only [exec, execRampReachesTarget]
  rw [State.running_released released, unknown]

theorem exec_rampReachesTarget_found {i : Fin 256} {t : Track} (found : s.table.lookup label = some (i, t)) :
    exec (.rampReachesTarget label) s =
      .next (if t.lastStepDue then { s with table := s.table.put i (some t.stepRamp) } else s) := by
  dsimp only [exec, execRampReachesTarget]
  rw [State.running_released released, found]

end

/-- Settles O40: each step takes the next value of G, whose values run from start to target without turning. -/
theorem rampStepsTowardItsTarget : Obligations.RampStepsTowardItsTarget := by
  refine ⟨fun t r ramp runs => ?step, fun r j k pos le within => ⟨fun up => ?up, fun down => ?down⟩,
    fun _ => Track.stepRamp_none, fun s label released => ⟨fun i t r found ramp last => ?last,
      exec_rampReachesTarget_unknown released, fun i t found none => ?none⟩⟩
  case step =>
    have step := Track.stepRamp_running ramp runs
    have gainNow : t.stepRamp.gainNow = r.gainAt (r.elapsed + 1) := by rw [step]
    refine ⟨by rw [gainNow, r.gainAt_eq (Nat.zero_lt_of_lt runs) runs], by rw [gainNow, step], fun last => ?_⟩
    rw [gainNow, last, Ramp.gainAt_length (Nat.zero_lt_of_lt runs)]
  case up =>
    have first := (r.gainAt_between (le.trans within)).1
    have final := (r.gainAt_between within).2
    rw [Nat.min_eq_left up] at first
    rw [Nat.max_eq_right up] at final
    exact ⟨first, Ramp.gainAt_mono up le, final⟩
  case down =>
    have first := (r.gainAt_between (le.trans within)).2
    have final := (r.gainAt_between within).1
    rw [Nat.max_eq_left down] at first
    rw [Nat.min_eq_right down] at final
    exact ⟨final, Ramp.gainAt_anti down le, first⟩
  case last =>
    rw [exec_rampReachesTarget_found released found, if_pos (Track.lastStepDue_iff.2 ⟨r, ramp, last⟩),
      Track.stepRamp_last ramp last.symm]
    rfl
  case none =>
    rw [exec_rampReachesTarget_found released found, if_neg]
    intro due
    obtain ⟨r, ramp, last⟩ := Track.lastStepDue_iff.1 due
    exact none r ramp last

end Sys2Proof.Machine
end

section
/-! LANE (spec 08 section 8.6): refused where an EMBED group with owned channels would leave EMBED, staged otherwise (R147 to
R149). -/

namespace Sys2Proof.Machine

/-! ### When a group is in use (R148) -/

theorem State.ownedChannels_pos_iff {s : State} {l : Fin 8} {g : Fin 4} :
    0 < s.ownedChannels l g ↔ ∃ c, (s.table.ownerOf (.lane l g c)).isSome := by
  refine ⟨fun pos => ?_, fun ⟨_, owned⟩ => State.ownedChannels_pos owned⟩
  obtain ⟨c, -, owned⟩ := List.countP_pos_iff.1 pos
  exact ⟨c, owned⟩

theorem State.groupInUse_iff {s : State} {l : Fin 8} {setting : LaneSetting} : s.groupInUse l setting = true ↔
    ∃ g, ((s.tx.get l).groups.get g).disposition = .embed ∧ (setting.get g).disposition ≠ .embed ∧
      ∃ c, (s.table.ownerOf (.lane l g c)).isSome := by
  have every (g : Fin 4) : g ∈ ([0, 1, 2, 3] : List (Fin 4)) := by fin_cases g <;> simp
  simp only [State.groupInUse, List.any_eq_true, every, true_and, Bool.and_eq_true, decide_eq_true_eq, bne_iff_ne,
    State.ownedChannels_pos_iff, and_assoc]

/-! ### The setting staged (R66, R149) -/

/-- Records that all stand lose no source newly (R160). -/
theorem Table.anyNewlyLost_of_slots {before after : Table} (slots : after.slots = before.slots) :
    before.anyNewlyLost after = false := by
  rw [Bool.eq_false_iff, ne_eq, Table.anyNewlyLost_iff]
  rintro ⟨i, v, u, hv, hu, stood, lost⟩
  rw [Table.holds, slots] at hu
  cases hv.symm.trans hu
  rw [stood] at lost
  cases lost

theorem State.stagedItems_stageLane (s : State) (l : Fin 8) (setting : LaneSetting) :
    (s.setTx l { s.tx.get l with staged := some setting }).stagedItems =
      s.stagedItems + if (s.tx.get l).staged.isSome then 0 else 1 := by
  have moved := s.stagedItems_setTx l { s.tx.get l with staged := some setting }
  cases held : (s.tx.get l).staged with
  | none => rwa [held] at moved
  | some old =>
    rw [held] at moved
    exact Nat.add_right_cancel moved

/-- A setting staged is settled as one staged item more where the lane held none: no count falls, so that nothing is
reported (R65 to R67). -/
theorem State.settle_stageLane (s : State) (l : Fin 8) (setting : LaneSetting) :
    State.settle s (s.setTx l { s.tx.get l with staged := some setting }) = { s with
      tx := s.tx.set l { s.tx.get l with staged := some setting }
      table := { s.table with staged := s.table.staged + if (s.tx.get l).staged.isSome then 0 else 1 } } := by
  generalize added : (if (s.tx.get l).staged.isSome then 0 else 1) = k
  have items : s.table.staged + (s.setTx l { s.tx.get l with staged := some setting }).stagedItems - s.stagedItems =
      s.table.staged + k := by
    rw [s.stagedItems_stageLane, added]
    omega
  have occupancy : s.table.occupancy + s.table.records - s.table.records = s.table.occupancy := Nat.add_sub_cancel ..
  have rises : (decide (0 < s.table.staged) && decide (s.table.staged + k = 0)) = false := by
    simp
    omega
  have lost : s.table.anyNewlyLost { s.table with staged := s.table.staged + k } = false :=
    Table.anyNewlyLost_of_slots rfl
  rw [State.settle, items, State.setTx_table, occupancy]
  simp only [State.reportTable, lost, State.reportIf_false, rises, Attention.reportOccupancy_same]
  rfl

/-! ### The row LANE -/

section
variable {s : State} {params : List Byte} {l : Fin 8} {setting : LaneSetting} (takes : s.takes params)
  (read : readLane params = some (l, setting))
include takes read

theorem exec_lane_groupInUse (used : s.groupInUse l setting = true) :
    exec (.lane params) s = .next (s.replied .lane .groupInUse []) := by
  have used : s.closePort.groupInUse l setting = true := used
  exact exec_row_refuses takes (c := .lane) (by simp only [State.perform, State.doLane, read, used, if_true])

theorem exec_lane_stages (unused : s.groupInUse l setting = false) : exec (.lane params) s = .next ({ s with
    tx := s.tx.set l { s.tx.get l with staged := some setting }
    table := { s.table with staged := s.table.staged + if (s.tx.get l).staged.isSome then 0 else 1 }
    }.replied .lane .done []) := by
  have row : exec (.lane params) s = .next (s.closePort.doLane params) := exec_row_takes takes .lane
  have unused : ¬s.closePort.groupInUse l setting = true := Bool.eq_false_iff.1 unused
  rw [row, State.doLane, read]
  dsimp only
  rw [if_neg unused, State.settle_stageLane]
  rfl
end

/-- Settles O33: by whether a group is in use; a lane that stages its setting is one settled event that moves no count down. -/
theorem laneStagesItsSetting : Obligations.LaneStagesItsSetting := by
  refine fun s params l setting takes read => ⟨fun used => exec_lane_groupInUse takes read (State.groupInUse_iff.2 used),
    fun free => exec_lane_stages takes read ?_⟩
  rw [Bool.eq_false_iff, ne_eq, State.groupInUse_iff]
  rintro ⟨g, force, leaves, c, owned⟩
  rw [free g force leaves c] at owned
  cases owned

end Sys2Proof.Machine
end

section
/-! The survey and the attention unit (spec 09): a page as the first matches of the slots examined (R154 to R157), the two
requests and what sets and clears them (R160 to R165). -/

namespace Sys2Proof.Machine

/-! ### One examination of the slots (R157) -/

/-- The label that a slot gives to a survey, if its record matches. -/
def SurveyRequest.labelOf (r : SurveyRequest) (o : Option Track) : Option Nat :=
  o.bind fun t => if r.admits t then some t.label else none

/-- The labels of all matches of the slots, in slot order. -/
def SurveyRequest.labelsOf (r : SurveyRequest) (slots : List (Option Track)) : List Nat := slots.filterMap r.labelOf

section
variable {r : SurveyRequest} {slot wanted : Nat} {o : Option Track} {t : Track} {rest : List (Option Track)}

theorem SurveyRequest.labelOf_eq_some_iff {label : Nat} :
    r.labelOf o = some label ↔ ∃ t, o = some t ∧ r.admits t = true ∧ t.label = label := by
  simp [SurveyRequest.labelOf, Option.bind_eq_some_iff]

theorem SurveyRequest.labelOf_match (admitted : r.admits t = true) : r.labelOf (some t) = some t.label :=
  labelOf_eq_some_iff.2 ⟨t, rfl, admitted, rfl⟩

/-- A slot that gives no label is passed over. -/
theorem SurveyRequest.examine_skip (unmatched : r.labelOf o = none) :
    r.examine slot wanted (o :: rest) = r.examine (slot + 1) wanted rest := by
  cases o with
  | none => rfl
  | some t =>
    have refused : ¬r.admits t = true := fun admitted => by cases (labelOf_match admitted).symm.trans unmatched
    rw [SurveyRequest.examine, if_neg refused]

/-- The match that fills the page ends it. -/
theorem SurveyRequest.examine_last (admitted : r.admits t = true) (last : wanted = 1) :
    r.examine slot wanted (some t :: rest) = ([t.label], slot + 1) := by
  rw [SurveyRequest.examine, if_pos admitted, if_pos last.le]

/-- A match with more wanted is followed by the page of the slots after it. -/
theorem SurveyRequest.examine_match (admitted : r.admits t = true) (more : 1 < wanted) :
    r.examine slot wanted (some t :: rest) =
      (t.label :: (r.examine (slot + 1) (wanted - 1) rest).1, (r.examine (slot + 1) (wanted - 1) rest).2) := by
  rw [SurveyRequest.examine, if_pos admitted, if_neg (Nat.not_le.2 more)]

theorem SurveyRequest.labelsOf_skip (unmatched : r.labelOf o = none) : r.labelsOf (o :: rest) = r.labelsOf rest :=
  List.filterMap_cons_none unmatched

theorem SurveyRequest.labelsOf_match (admitted : r.admits t = true) :
    r.labelsOf (some t :: rest) = t.label :: r.labelsOf rest := List.filterMap_cons_some (labelOf_match admitted)

theorem SurveyRequest.labelsOf_append (before after : List (Option Track)) :
    r.labelsOf (before ++ after) = r.labelsOf before ++ r.labelsOf after := List.filterMap_append
end

/-- An examination runs out of slots with labels still wanted, or ends at the match `t` that fills its page. -/
theorem SurveyRequest.examine_cases (r : SurveyRequest) {wanted : Nat} (some_wanted : 1 ≤ wanted) (slot : Nat)
    (slots : List (Option Track)) :
    (r.examine slot wanted slots = (r.labelsOf slots, 256) ∧ (r.labelsOf slots).length < wanted) ∨
    ∃ seen t rest, slots = seen ++ some t :: rest ∧ r.admits t = true ∧ (r.labelsOf seen).length + 1 = wanted ∧
      r.examine slot wanted slots = (r.labelsOf seen ++ [t.label], slot + seen.length + 1) := by
  induction slots generalizing slot wanted with
  | nil => exact .inl ⟨rfl, some_wanted⟩
  | cons o slots ih =>
    cases label : r.labelOf o with
    | none =>
      rw [examine_skip label]
      obtain ⟨page, short⟩ | ⟨seen, t, rest, split, admitted, full, page⟩ := ih some_wanted (slot + 1)
      · exact .inl ⟨by rw [page, labelsOf_skip label], by rwa [labelsOf_skip label]⟩
      · refine .inr ⟨o :: seen, t, rest, by rw [split]; rfl, admitted, by rwa [labelsOf_skip label], ?_⟩
        rw [page, labelsOf_skip label, List.length_cons, Nat.add_right_comm slot 1, ← Nat.add_assoc]
    | some n =>
      obtain ⟨t, rfl, admitted, -⟩ := labelOf_eq_some_iff.1 label
      obtain last | more : wanted = 1 ∨ 1 < wanted := by omega
      · exact .inr ⟨[], t, slots, rfl, admitted, last.symm, examine_last admitted last⟩
      · rw [examine_match admitted more]
        obtain ⟨page, short⟩ | ⟨seen, u, rest, split, admitted', full, page⟩ :=
          ih (wanted := wanted - 1) (by omega) (slot + 1)
        · refine .inl ⟨by rw [page, labelsOf_match admitted], ?_⟩
          rw [labelsOf_match admitted, List.length_cons]
          omega
        · refine .inr ⟨some t :: seen, u, rest, by rw [split]; rfl, admitted', ?_, ?_⟩
          · rw [labelsOf_match admitted, List.length_cons]
            omega
          · rw [page, labelsOf_match admitted, List.length_cons, Nat.add_right_comm slot 1, ← Nat.add_assoc]
            rfl

/-! ### Pages (R157) -/

/-- Where the cells of a bank from place `c` on are split at `x`, a place of the bank holds `x`. -/
theorem Bank.get_of_drop {b : Bank α n} {c : Nat} {x : α} {before after : List α}
    (split : b.cells.drop c = before ++ x :: after) :
    ∃ i : Fin n, i.1 = c + before.length ∧ b.get i = x ∧ b.cells.drop (i.1 + 1) = after := by
  have found : b.cells[c + before.length]? = some x := by
    rw [← List.getElem?_drop, split]
    simp
  obtain ⟨h, held⟩ := List.getElem?_eq_some_iff.1 found
  refine ⟨⟨c + before.length, b.size ▸ h⟩, rfl, held, ?_⟩
  rw [Nat.add_assoc, ← List.drop_drop, split]
  simp

/-- A page holds every match from its cursor on and falls short, or its last label is that of the slot before its next
cursor and the matches from there on are the others. -/
theorem SurveyRequest.page_cases (r : SurveyRequest) (tab : Table) (some_wanted : 1 ≤ r.maximum) :
    (r.page tab = (r.labelsOf (tab.slots.cells.drop r.cursor), 256) ∧ (r.page tab).1.length < r.maximum) ∨
    ∃ (i : Fin 256) (t : Track) (before : List Nat), tab.holds i t ∧ r.admits t = true ∧ r.cursor ≤ i.1 ∧
      r.page tab = (before ++ [t.label], i.1 + 1) ∧ before.length + 1 = r.maximum ∧
      r.labelsOf (tab.slots.cells.drop r.cursor) = before ++ t.label :: r.labelsOf (tab.slots.cells.drop (i.1 + 1)) := by
  obtain ⟨page, short⟩ | ⟨seen, t, rest, split, admitted, full, page⟩ :=
    r.examine_cases some_wanted r.cursor (tab.slots.cells.drop r.cursor)
  · exact .inl ⟨page, by rwa [SurveyRequest.page, page]⟩
  · obtain ⟨i, place, held, after⟩ := Bank.get_of_drop split
    refine .inr ⟨i, t, r.labelsOf seen, held, admitted, by omega, ?_, full, ?_⟩
    · rw [place]
      exact page
    · rw [after, split, labelsOf_append, labelsOf_match admitted]

/-! ### The fields of SURVEY (R154, 12.2) -/

/-- A selector by the number in its two bits; 0 and 3 are EITHER. -/
theorem readSelector_eq (b : Byte) (i : Nat) : readSelector b i =
    if b.toNat / 2 ^ i % 4 = 1 then .clear else if b.toNat / 2 ^ i % 4 = 2 then .set else .either := by
  have bit (j : Nat) : b.getLsbD j = decide (b.toNat / 2 ^ j % 2 = 1) := Nat.testBit_eq_decide_div_mod_eq
  have high : b.toNat / 2 ^ (i + 1) = b.toNat / 2 ^ i / 2 := by rw [Nat.pow_succ, Nat.div_div_eq_div_mul]
  rw [readSelector, bit, bit, high]
  generalize b.toNat / 2 ^ i = q
  obtain zero | one | two | three : q % 4 = 0 ∨ q % 4 = 1 ∨ q % 4 = 2 ∨ q % 4 = 3 := by omega
  · rw [zero, show q / 2 % 2 = 0 by omega, show q % 2 = 0 by omega]; rfl
  · rw [one, show q / 2 % 2 = 0 by omega, show q % 2 = 1 by omega]; rfl
  · rw [two, show q / 2 % 2 = 1 by omega, show q % 2 = 0 by omega]; rfl
  · rw [three, show q / 2 % 2 = 1 by omega, show q % 2 = 1 by omega]; rfl

theorem length_readPattern (p1 p2 p3 : Byte) : (readPattern p1 p2 p3).length = 9 := rfl

/-- Four selectors a byte, the first in the highest bits. -/
theorem getElem_readPattern (p1 p2 p3 : Byte) {j : Nat} (h : j < (readPattern p1 p2 p3).length) :
    (readPattern p1 p2 p3)[j] = readSelector (if j < 4 then p1 else if j < 8 then p2 else p3) (2 * (3 - j % 4)) := by
  have : j < 9 := h
  interval_cases j <;> rfl

theorem readSurvey_eq_some_iff {c1 c0 m p1 p2 p3 f : Byte} {rest : List Byte} {r : SurveyRequest} :
    readSurvey (c1 :: c0 :: m :: p1 :: p2 :: p3 :: f :: rest) = some r ↔ r.cursor = min (nat16 c1 c0) 256 ∧
      r.maximum = max 1 (min m.toNat 16) ∧ r.pattern = readPattern p1 p2 p3 ∧ readFilter f = some r.filter := by
  obtain ⟨cursor, maximum, pattern, filter⟩ := r
  simp only [readSurvey, Option.bind_eq_bind, Option.bind_eq_some_iff, Option.pure_def, Option.some.injEq,
    SurveyRequest.mk.injEq]
  constructor
  · rintro ⟨_, read, rfl, rfl, rfl, rfl⟩
    exact ⟨rfl, rfl, rfl, read⟩
  · rintro ⟨rfl, rfl, rfl, read⟩
    exact ⟨filter, read, rfl, rfl, rfl, rfl⟩

theorem readFilter_none_iff {f : Byte} : readFilter f = some none ↔ f = 0xFF :=
  readFilter_eq_some_iff.trans (BitVec.toNat_inj (y := 0xFF))

/-! ### What a record matches (R155, R156) -/

theorem Selector.admits_iff (x : Selector) (flag : Bool) :
    x.admits flag = true ↔ (x = .clear → flag ≠ true) ∧ (x = .set → flag ≠ false) := by
  cases x <;> cases flag <;> decide

/-- Selectors and flags are compared number by number. -/
theorem all_admits_iff (pattern : List Selector) (flags : List Bool) :
    ((pattern.zip flags).all fun p => p.1.admits p.2) = true ↔
      ∀ j : Nat, (pattern[j]? = some .clear → flags[j]? ≠ some true) ∧ (pattern[j]? = some .set → flags[j]? ≠ some false) := by
  simp only [List.all_eq_true, List.mem_iff_getElem?, List.getElem?_zip_eq_some, Prod.forall, Selector.admits_iff]
  constructor
  · intro h j
    exact ⟨fun clear flag => (h .clear true ⟨j, clear, flag⟩).1 rfl rfl,
      fun set flag => (h .set false ⟨j, set, flag⟩).2 rfl rfl⟩
  · rintro h x flag ⟨j, selector, held⟩
    constructor <;> rintro rfl rfl
    · exact (h j).1 selector held
    · exact (h j).2 selector held

theorem Source.onLane_iff {l : Fin 8} {x : Source} : x.onLane l = true ↔ ∃ g c, x = .lane l g c := by
  cases x <;> simp [Source.onLane, eq_comm]

theorem Dest.onLane_iff {l : Fin 8} {d : Dest} : d.onLane l = true ↔ ∃ g c, d = .lane l g c := by
  cases d <;> simp [Dest.onLane, eq_comm]

theorem Track.touchesLane_iff (t : Track) (l : Fin 8) : t.touchesLane l = true ↔
    ∃ g c, t.source = .lane l g c ∨ t.pendingSource = some (.lane l g c) ∨ ∃ e ∈ t.entries, e.dest = .lane l g c := by
  simp only [Track.touchesLane, Bool.or_eq_true, Option.any_eq_true, List.any_eq_true, Source.onLane_iff, Dest.onLane_iff,
    or_assoc]
  constructor
  · rintro (⟨g, c, source⟩ | ⟨_, pending, g, c, rfl⟩ | ⟨e, mem, g, c, dest⟩)
    · exact ⟨g, c, .inl source⟩
    · exact ⟨g, c, .inr (.inl pending)⟩
    · exact ⟨g, c, .inr (.inr ⟨e, mem, dest⟩)⟩
  · rintro ⟨g, c, source | pending | ⟨e, mem, dest⟩⟩
    · exact .inl ⟨g, c, source⟩
    · exact .inr (.inl ⟨_, pending, g, c, rfl⟩)
    · exact .inr (.inr ⟨e, mem, g, c, dest⟩)

theorem SurveyRequest.admits_iff (r : SurveyRequest) (t : Track) : r.admits t = true ↔
    (∀ j : Nat, (r.pattern[j]? = some .clear → t.flags[j]? ≠ some true) ∧
      (r.pattern[j]? = some .set → t.flags[j]? ≠ some false)) ∧ ∀ l, r.filter = some l → t.touchesLane l = true := by
  rw [SurveyRequest.admits, Bool.and_eq_true, all_admits_iff, Option.all_eq_true]

/-! ### The row SURVEY -/

theorem exec_survey {s : State} {params : List Byte} {r : SurveyRequest} (takes : s.takes params)
    (read : readSurvey params = some r) :
    exec (.survey params) s = .next (s.replied .survey .done (surveyRecord (r.page s.table))) :=
  exec_row_answers takes (c := .survey) (by rw [State.perform, State.doSurvey, read]; rfl)

/-- Settles O31: the examination runs out of slots or stops at the match that fills its page, and the rest follows field
by field. -/
theorem surveyPagesCompose : Obligations.SurveyPagesCompose := by
  refine ⟨fun s params r takes read => exec_survey takes read, fun c1 c0 m p1 p2 p3 f rest r read => ?fields,
    fun r t => ?record, fun r tab within some_wanted => ?pages⟩
  case fields =>
    obtain ⟨cursor, maximum, pattern, filter⟩ := readSurvey_eq_some_iff.1 read
    refine ⟨by rw [cursor, nat16_eq], maximum, ?_, fun l named => ?_, by rw [pattern, length_readPattern], fun j h => ?_⟩
    · rw [← readFilter_none_iff, filter, Option.some_inj]
    · rw [named] at filter
      exact readFilter_eq_some_iff.1 filter
    · simp only [pattern]
      rw [getElem_readPattern, readSelector_eq, Nat.pow_mul]
  case record =>
    rw [r.admits_iff]
    simp only [Track.touchesLane_iff]
    rfl
  case pages =>
    intro matchesFrom
    have labels (c : Nat) : matchesFrom c = r.labelsOf (tab.slots.cells.drop c) := rfl
    have none_left : matchesFrom 256 = [] := by
      rw [labels, List.drop_of_length_le tab.slots.size.le]
      rfl
    obtain ⟨page, short⟩ | ⟨i, t, before, held, admitted, beyond, page, full, composed⟩ := r.page_cases tab some_wanted
    · rw [page] at short ⊢
      exact ⟨by rw [none_left, List.append_nil, labels], short.le, le_rfl, id, fun _ => rfl, fun full => absurd full short.ne⟩
    · have length : (before ++ [t.label]).length = r.maximum := by rw [List.length_append, List.length_singleton, full]
      rw [page, labels r.cursor, composed]
      exact ⟨List.append_assoc .., length.le, i.2, fun _ => Nat.lt_succ_of_le beyond, fun short => absurd length short.ne,
        fun _ => ⟨i, t, held, admitted, beyond, List.getLast?_concat, rfl⟩⟩

/-! ### Reports to the attention unit (R161, R162) -/

theorem Attention.report_eq (a : Attention) (o : Occurrence) :
    a.report o = { a with requestA := a.requestA || decide (a.selectorA = some o) } := by
  rw [Attention.report]
  split
  · next selected => rw [decide_eq_true selected, Bool.or_true]
  · next other => rw [decide_eq_false other, Bool.or_false]

theorem Attention.crosses_iff (a : Attention) (m n : Nat) : a.crosses m n = true ↔
    a.selectorB = .rising ∧ m ≤ a.threshold ∧ a.threshold < n ∨
    a.selectorB = .falling ∧ a.threshold < m ∧ n ≤ a.threshold := by
  unfold Attention.crosses
  split <;> simp [*]

theorem Attention.reportOccupancy_eq (a : Attention) (m n : Nat) :
    a.reportOccupancy m n = { a with requestB := a.requestB || a.crosses m n } := by
  rw [Attention.reportOccupancy]
  split
  · next crossed => rw [crossed, Bool.or_true]
  · next still => rw [Bool.eq_false_iff.2 still, Bool.or_false]

theorem Attention.requestB_of_crosses {a : Attention} {m n : Nat} (h : a.crosses m n = true) :
    (a.reportOccupancy m n).requestB = true := by rw [Attention.reportOccupancy_eq, h, Bool.or_true]

theorem readSelectorB_eq_none_iff {b : Byte} : readSelectorB b = none ↔ 2 < b.toNat := by
  constructor
  · intro unread
    by_contra code
    obtain rfl | rfl | rfl : b = 0 ∨ b = 1 ∨ b = 2 := by bv_omega
    all_goals cases unread
  · refine fun beyond => Option.eq_none_iff_forall_ne_some.2 fun x read => ?_
    rw [readSelectorB_eq_some_iff.1 read] at beyond
    exact absurd x.toNat_code_le (Nat.not_le.2 beyond)

/-- Settles O55: request A by the occurrence selected, request B by a crossing, which T = 256 leaves no occupancy to make. -/
theorem occurrencesSetRequests : Obligations.OccurrencesSetRequests := by
  refine ⟨Attention.report_eq, fun a m n => ?crosses, fun _ => readSelectorB_eq_none_iff, fun a m n top before after => ?top,
    fun a m n bottom => ⟨fun rising empty filled => ?rising, fun falling filled empty => ?falling⟩⟩
  case crosses =>
    rw [a.reportOccupancy_eq, Bool.eq_iff_iff.2 ((a.crosses_iff m n).trans decide_eq_true_iff.symm)]
  case top =>
    have still : a.crosses m n = false := by
      rw [Bool.eq_false_iff, ne_eq, a.crosses_iff]
      omega
    rw [a.reportOccupancy_eq, still, Bool.or_false]
  case rising => exact a.requestB_of_crosses ((a.crosses_iff m n).2 (.inl ⟨rising, by omega, by omega⟩))
  case falling => exact a.requestB_of_crosses ((a.crosses_iff m n).2 (.inr ⟨falling, by omega, by omega⟩))

/-! ### ATTEND (R163, R164) -/

section
variable {m : Byte} {rest : List Byte}

theorem readAttend_of_lt (named : m.toNat < 4) : readAttend (m :: rest) = some (m.getLsbD 0, m.getLsbD 1) := if_pos named

theorem readAttend_of_le (beyond : 4 ≤ m.toNat) : readAttend (m :: rest) = none := if_neg (Nat.not_lt.2 beyond)
end

/-- An ATTEND that reads answers the record of the part as it stood and clears the requests named. -/
theorem exec_attend_of_read {s : State} {params : List Byte} {a b : Bool} (takes : s.takes params)
    (read : readAttend params = some (a, b)) : exec (.attend params) s =
      .next ({ s with attn := { s.attn with requestA := s.attn.requestA && !a, requestB := s.attn.requestB && !b }
        }.replied .attend .done s.attentionRecord) := by
  have executes : exec (.attend params) s = .next (s.closePort.doAttend params) := exec_row_takes takes .attend
  rw [executes, State.doAttend, read]
  rfl

theorem State.attentionLine_iff (s : State) :
    s.attentionLine = true ↔ s.attn.requestA = true ∨ s.attn.requestB = true := Bool.or_eq_true_iff ..

/-- RESTART leaves request A set (R159, R179). -/
theorem State.attentionLine_restart {s t : State} {params : List Byte} (takes : s.takes params)
    (ran : exec (.restart params) s = .next t) : t.attentionLine = true := by
  have executes : exec (.restart params) s = .next s.closePort.doRestart := exec_row_takes takes .restart
  rw [executes] at ran
  cases ran
  rfl

/-- Settles O16: by whether the mask names requests only; the line is the two requests. -/
theorem attendAnswersAndClears : Obligations.AttendAnswersAndClears :=
  ⟨fun _ _ _ takes => ⟨fun named => exec_attend_of_read takes (readAttend_of_lt named),
      fun beyond => exec_row_unread (c := .attend) takes (Option.isNone_iff_eq_none.2 (readAttend_of_le beyond))⟩,
    State.attentionLine_iff, rfl, fun _ _ _ => State.attentionLine_restart⟩

end Sys2Proof.Machine
end

section
/-! Transactions bit by bit and byte by byte, and what the release of select makes of the frame in progress (spec 10 sections
10.1 and 10.2). -/

namespace Sys2Proof.Machine

/-! ### Bits and bytes (R167, R168; log 13) -/

/-- Bits that complete no byte stand behind those of the byte begun. -/
theorem Port.clocks_short {p : Port} {bits : List Bool} (short : p.bits.length + bits.length < 8) :
    bits.foldl Port.clock p = { p with bits := p.bits ++ bits } := by
  induction bits generalizing p with
  | nil => rw [List.foldl_nil, List.append_nil]
  | cons x bits ih =>
    rw [List.length_cons] at short
    have early : p.bits.length ≠ 7 := by omega
    have fewer : (p.bits ++ [x]).length + bits.length < 8 := by
      rw [List.length_append, List.length_singleton]
      omega
    rw [List.foldl_cons, Port.clock_early early, ih fewer, List.append_assoc, List.singleton_append]

/-- The eighth bit, the last of those clocked, moves the byte that the eight make. -/
theorem Port.clocks_eighth {p : Port} {bits : List Bool} (more : bits ≠ []) (eight : p.bits.length + bits.length = 8) :
    bits.foldl Port.clock p = { p.shift (byteOfBits (p.bits ++ bits)) with bits := [] } := by
  obtain ⟨before, last, rfl⟩ := (List.eq_nil_or_concat' bits).resolve_left more
  rw [List.length_append, List.length_singleton] at eight
  have seven : (p.bits ++ before).length = 7 := by
    rw [List.length_append]
    omega
  have short : p.bits.length + before.length < 8 := by omega
  rw [List.foldl_append, Port.clocks_short short, List.foldl_cons, List.foldl_nil, Port.clock_last seven,
    List.append_assoc]
  rfl

/-- The rest of a byte's bits move it, its first bits already standing. -/
theorem Port.clocks_rest {p : Port} {b : Byte} {k : Nat} (within : k < 8) (standing : p.bits = (bitsOf b).take k) :
    ((bitsOf b).drop k).foldl Port.clock p = { p.shift b with bits := [] } := by
  have eight : (bitsOf b).length = 8 := rfl
  have more : (bitsOf b).drop k ≠ [] := by
    rw [ne_eq, List.drop_eq_nil_iff]
    omega
  have whole : p.bits.length + ((bitsOf b).drop k).length = 8 := by
    rw [standing, List.length_take, List.length_drop]
    omega
  rw [Port.clocks_eighth more whole, standing, List.take_append_drop, byteOfBits_bitsOf]

/-- Between bytes, the eight bits of the next one move it. -/
theorem Port.clocks_byte {p : Port} (between : p.bits = []) (b : Byte) : (bitsOf b).foldl Port.clock p = p.shift b := by
  have moved : (bitsOf b).foldl Port.clock p = { p.shift b with bits := [] } :=
    Port.clocks_rest (k := 0) (by decide) between
  rw [moved, ← between]
  rfl

theorem Port.clocks_opened (p : Port) (bits : List Bool) : (bits.foldl Port.clock p).opened = p.opened := by
  induction bits generalizing p with
  | nil => rfl
  | cons x bits ih => rw [List.foldl_cons, ih, Port.clock_opened]

/-! ### A byte received (R170, R171) -/

section
variable {p : Port} {code n b : Byte} {held : List Byte}

theorem Port.receive_fill (empty : p.frame = []) : p.receive 0xFF = [] := by simp [Port.receive, empty]

theorem Port.receive_code (empty : p.frame = []) (command : b ≠ 0xFF) : p.receive b = [b] := by
  have taken : (decide (p.frame = []) && decide (b = 0xFF)) = false := by rw [decide_eq_false command, Bool.and_false]
  rw [Port.receive, taken, empty]
  rfl

theorem Port.receive_length (begun : p.frame = [code]) : p.receive b = [code, b] := by
  simp [Port.receive, begun, frameOpen]

theorem frameOpen_iff : frameOpen (code :: n :: held) = true ↔ n.toNat ≤ 60 ∧ held.length < n.toNat := by
  simp only [frameOpen, Bool.and_eq_true, decide_eq_true_eq]
  rfl

/-- A parameter byte is taken while the frame is not whole and announces no more than 60. -/
theorem Port.receive_param (begun : p.frame = code :: n :: held) : p.receive b =
    if n.toNat ≤ 60 ∧ held.length < n.toNat then code :: n :: held ++ [b] else code :: n :: held := by
  simp only [Port.receive, begun, frameOpen_iff, List.cons_ne_nil, decide_false, Bool.false_and, Bool.false_eq_true,
    if_false]
end

/-! ### The row PORT_BYTE_SHIFTED -/

section
variable {s : State} (released : s.resetHeld = false)
include released

theorem exec_selectAsserted : exec .selectAsserted s = .next { s with port := s.port.open } := by
  rw [exec, execSelectAsserted, State.running_released released]

theorem exec_portByteShifted_closed (closed : s.port.opened = false) (bits : List Bool) :
    exec (.portByteShifted bits) s = .next s := by
  rw [exec, execPortByteShifted, State.running_released released, closed]
  rfl

theorem exec_portByteShifted_open (opened : s.port.opened = true) (bits : List Bool) :
    exec (.portByteShifted bits) s = .next { s with port := bits.foldl Port.clock s.port } := by
  rw [exec, execPortByteShifted, State.running_released released, if_pos opened]

/-- Bits clocked together are clocked one after another. -/
theorem exec_portByteShifted_append (x y : List Bool) : ∃ u, exec (.portByteShifted x) s = .next u ∧
    exec (.portByteShifted (x ++ y)) s = exec (.portByteShifted y) u := by
  cases opened : s.port.opened with
  | false => exact ⟨s, exec_portByteShifted_closed released opened x, by
      rw [exec_portByteShifted_closed released opened, exec_portByteShifted_closed released opened]⟩
  | true =>
    have still : (x.foldl Port.clock s.port).opened = true := (Port.clocks_opened ..).trans opened
    refine ⟨_, exec_portByteShifted_open released opened x, ?_⟩
    rw [exec_portByteShifted_open released opened, exec_portByteShifted_open (by exact released) still, List.foldl_append]
end

/-- Settles O5: bits that complete no byte stand, and the eighth moves a byte each way, received by how the frame stands. -/
theorem portOpensAndShifts : Obligations.PortOpensAndShifts := by
  refine ⟨fun s released => exec_selectAsserted released,
    fun s x y released => ⟨?none, exec_portByteShifted_append released x y⟩,
    fun s released => ⟨exec_portByteShifted_closed released, fun opened x few => ?early,
      fun opened b k within => ?eighth⟩⟩
  case none =>
    cases opened : s.port.opened with
    | false => exact exec_portByteShifted_closed released opened []
    | true => exact exec_portByteShifted_open released opened []
  case early =>
    have short : s.port.bits.length + [x].length < 8 := Nat.add_lt_add_right few 1
    rw [exec_portByteShifted_open released opened, Port.clocks_short short]
  case eighth =>
    intro bits standing
    have moved : (bits.drop k).foldl Port.clock s.port = _ := Port.clocks_rest within standing
    rw [exec_portByteShifted_open released opened, moved, Port.shift]
    congr 4
    match frame : s.port.frame with
    | [] =>
      by_cases fill : b = 0xFF
      · rw [fill, Port.receive_fill frame, if_pos ⟨rfl, rfl⟩]
      · rw [Port.receive_code frame fill, if_neg fun both => fill both.2]
        rfl
    | [code] => rw [Port.receive_length frame, if_neg (by simp)]; rfl
    | code :: n :: params => rw [Port.receive_param frame, if_neg (c := _ = [] ∧ _) (by simp)]

/-! ### A transaction byte by byte (R168, R170, R171) -/

theorem Port.shifts_keep (p : Port) (bytes : List Byte) : (bytes.foldl Port.shift p).held = p.held ∧
    (bytes.foldl Port.shift p).opened = p.opened ∧ (bytes.foldl Port.shift p).outgoing = p.outgoing := by
  induction bytes generalizing p with
  | nil => exact ⟨rfl, rfl, rfl⟩
  | cons b bytes ih => exact ih (p.shift b)

theorem Port.shifts_shifted {p : Port} (within : p.shifted ≤ p.outgoing.length) (bytes : List Byte) :
    (bytes.foldl Port.shift p).shifted = min (p.shifted + bytes.length) p.outgoing.length := by
  induction bytes generalizing p with
  | nil => exact (Nat.min_eq_left within).symm
  | cons b bytes ih =>
    rw [List.foldl_cons, ih (Nat.min_le_right ..), Port.shift_shifted, Port.shift_outgoing, List.length_cons]
    omega

/-- Fill bytes leave an empty frame empty. -/
theorem Port.shifts_fill {p : Port} (empty : p.frame = []) (k : Nat) :
    ((List.replicate k 0xFF).foldl Port.shift p).frame = [] := by
  induction k generalizing p with
  | zero => exact empty
  | succ k ih => exact ih (Port.receive_fill empty)

/-- Parameter bytes are taken up to the number announced. -/
theorem Port.shifts_params {p : Port} {code n : Byte} {held params : List Byte} (begun : p.frame = code :: n :: held)
    (fits : n.toNat ≤ 60) (within : held.length + params.length ≤ n.toNat) :
    (params.foldl Port.shift p).frame = code :: n :: (held ++ params) := by
  induction params generalizing p held with
  | nil => rw [List.append_nil]; exact begun
  | cons b params ih =>
    rw [List.length_cons] at within
    have taken : (p.shift b).frame = code :: n :: (held ++ [b]) :=
      (Port.receive_param begun).trans (if_pos ⟨fits, by omega⟩)
    have rest : (held ++ [b]).length + params.length ≤ n.toNat := by
      rw [List.length_append, List.length_singleton]
      omega
    rw [List.foldl_cons, ih taken rest, List.append_assoc, List.singleton_append]

/-- A whole frame takes no further byte. -/
theorem Port.shifts_whole {p : Port} {code n : Byte} {held : List Byte} (begun : p.frame = code :: n :: held)
    (whole : held.length = n.toNat) (rest : List Byte) : (rest.foldl Port.shift p).frame = code :: n :: held := by
  induction rest generalizing p with
  | nil => exact begun
  | cons b rest ih =>
    exact ih ((Port.receive_param begun).trans (if_neg fun more => Nat.lt_irrefl _ (whole ▸ more.2)))

/-- Fill, a whole frame and anything after it leave the frame in progress (R170, R171). -/
theorem Port.shifts_frame {p : Port} {code n : Byte} {params : List Byte} (empty : p.frame = []) (command : code ≠ 0xFF)
    (fits : n.toNat ≤ 60) (whole : params.length = n.toNat) (k : Nat) (rest : List Byte) :
    ((List.replicate k 0xFF ++ code :: n :: params ++ rest).foldl Port.shift p).frame = code :: n :: params := by
  rw [List.foldl_append, List.foldl_append, List.foldl_cons, List.foldl_cons]
  have filled := Port.shifts_fill empty k
  generalize (List.replicate k 0xFF).foldl Port.shift p = q at filled ⊢
  have coded : (q.shift code).frame = [code] := Port.receive_code filled command
  have announced : ((q.shift code).shift n).frame = [code, n] := Port.receive_length coded
  exact Port.shifts_whole (Port.shifts_params announced fits (by simp [whole])) whole rest

/-- Bytes shifted between the ends of a transaction move one by one and change only the port. -/
theorem runs_bytes {s : State} (released : s.resetHeld = false) (opened : s.port.opened = true)
    (between : s.port.bits = []) (bytes : List Byte) : Runs (bytes.map fun x => .portByteShifted (bitsOf x)) s
      { s with port := bytes.foldl Port.shift s.port } := by
  induction bytes generalizing s with
  | nil => rfl
  | cons b bytes ih =>
    refine ⟨{ s with port := s.port.shift b }, ?_, ih released opened between⟩
    rw [exec_portByteShifted_open released opened, Port.clocks_byte between]

theorem runs_transaction {s : State} (released : s.resetHeld = false) (bytes : List Byte) :
    Runs (.selectAsserted :: bytes.map fun x => .portByteShifted (bitsOf x)) s
      { s with port := bytes.foldl Port.shift s.port.open } :=
  ⟨_, exec_selectAsserted released, runs_bytes (s := { s with port := s.port.open }) released rfl rfl bytes⟩

/-- Settles O6: as many bytes have gone out as have come in, up to the end of the copy. -/
theorem transactionShiftsTheReplyOut : Obligations.TransactionShiftsTheReplyOut := by
  intro s bytes b released
  have moved := runs_transaction released (bytes ++ [b])
  obtain ⟨held, opened, outgoing⟩ := s.port.open.shifts_keep bytes
  have shifted := Port.shifts_shifted (p := s.port.open) (Nat.zero_le _) bytes
  rw [List.foldl_append, List.foldl_cons, List.foldl_nil] at moved
  refine ⟨_, moved, rfl, held, opened, ?_⟩
  rw [Port.shift_dataOut, outgoing, shifted, Port.open_shifted, Port.open_outgoing, Nat.zero_add]
  obtain inside | beyond := Nat.lt_or_ge bytes.length s.port.held.bytes.length
  · rw [Nat.min_eq_left inside.le]
  · rw [Nat.min_eq_right beyond, List.getD_eq_default _ _ le_rfl, List.getD_eq_default _ _ beyond]

/-- Settles O7: the frame in progress after fill, code, length, parameters and the bytes beyond. -/
theorem frameInProgressCollects : Obligations.FrameInProgressCollects := fun s k _ _ _ rest released command fits whole =>
  ⟨⟨_, runs_transaction released _, rfl, Port.shifts_frame rfl command fits whole k rest, (s.port.open.shifts_keep _).1⟩,
    ⟨_, runs_transaction released _, rfl, Port.shifts_fill rfl k, (s.port.open.shifts_keep _).1⟩⟩

/-! ### The release of select (R169 to R173, R175) -/

theorem Command.ofCode_code (c : Command) : Command.ofCode c.code = some c := by cases c <;> rfl

theorem Command.ofCode_eq_none {code : Byte} (unknown : ∀ c : Command, c.code ≠ code) : Command.ofCode code = none :=
  List.find?_eq_none.2 fun c _ => by simpa using unknown c

section
variable {s : State} {code n : Byte} {params : List Byte}

theorem State.judgeFrame_short (short : 60 < n.toNat ∨ params.length < n.toNat) :
    s.judgeFrame (code :: n :: params) = s.refuseFrame code .truncated := by
  refine if_neg ?_
  rw [Bool.and_eq_true, decide_eq_true_eq, decide_eq_true_eq, Config.maxParams]
  omega

theorem State.judgeFrame_whole (fits : n.toNat ≤ 60) (whole : params.length = n.toNat) :
    s.judgeFrame (code :: n :: params) = s.executeFrame code params :=
  if_pos (by simp [Config.maxParams, fits, whole])

theorem State.executeFrame_unknown (unknown : ∀ c : Command, c.code ≠ code) :
    s.executeFrame code params = s.refuseFrame code .unknownCommand := by
  rw [State.executeFrame, Command.ofCode_eq_none unknown]

theorem State.executeFrame_code (c : Command) : s.executeFrame c.code params = s.perform c params := by
  rw [State.executeFrame, Command.ofCode_code]
end

section
variable {s : State} (released : s.resetHeld = false) (after : Nat) (bits : List Bool)
include released

theorem exec_selectReleased_closed (closed : s.port.opened = false) :
    exec (.selectReleased after bits) s = .next { s with now := s.now + after } := by
  rw [exec, execSelectReleased, State.running_released released]
  dsimp only
  rw [State.elapse_port, closed]
  rfl

theorem exec_selectReleased_judges (opened : s.port.opened = true) : exec (.selectReleased after bits) s =
    .next ((s.elapse after).closePort.judgeFrame s.port.frame) := by
  rw [exec, execSelectReleased, State.running_released released]
  dsimp only
  rw [State.elapse_port, if_pos opened]
end

/-- Settles O8: each way a frame can fail to be a whole one of a command is a branch of the judging. -/
theorem selectReleasedJudges : Obligations.SelectReleasedJudges := by
  intro s after bits released
  refine ⟨exec_selectReleased_closed released after bits, fun opened => ?_⟩
  rw [exec_selectReleased_judges released after bits opened]
  refine ⟨fun frame => ?_, fun code frame => ?_, fun code n params frame short => ?_,
    fun code n params frame fits whole unknown => ?_⟩ <;> rw [frame]
  · rfl
  · rfl
  · rw [State.judgeFrame_short short]
    rfl
  · rw [State.judgeFrame_whole fits whole, State.executeFrame_unknown unknown]
    rfl

/-- Settles O9: a whole frame and the row of its command perform the same on the part with its transaction ended. -/
theorem wholeFrameExecutesAsItsRow : Obligations.WholeFrameExecutesAsItsRow := by
  intro c s after bits n params released opened frame fits whole
  have takes : (s.elapse after).takes params := ⟨released, whole.trans_le fits⟩
  have row : exec (c.row params) { s with now := s.now + after } = _ := exec_row_takes takes c
  rw [row, exec_selectReleased_judges released after bits opened, frame, State.judgeFrame_whole fits whole,
    State.executeFrame_code]

end Sys2Proof.Machine
end

section
/-! What a command of the port can answer (spec 10 section 10.3, 12 section 12.2): a refusal that changes nothing but the held
reply, or DONE with data that fit the frame, the queue as it was. -/

namespace Sys2Proof.Machine

/-! ### The lengths of reply data (12.2) -/

@[simp] theorem length_bytes16 (n : Nat) : (bytes16 n).length = 2 := rfl

theorem State.length_attentionRecord (s : State) : s.attentionRecord.length = 10 := rfl

theorem RefUnit.length_record (r : RefUnit) : r.record.length = 9 := rfl

theorem Table.length_ownerRecord (tab : Table) (d : Dest) : (tab.ownerRecord d).length = 3 := by
  unfold Table.ownerRecord
  split <;> rfl

/-- The four groups of a setting in turn, two bytes each. -/
theorem LaneSetting.record_eq (setting : LaneSetting) : LaneSetting.record setting =
    ([0, 1, 2, 3] : List (Fin 4)).flatMap fun g => [(setting.get g).disposition.code, (setting.get g).word.code] := by
  have cells : setting.cells = [setting.get 0, setting.get 1, setting.get 2, setting.get 3] :=
    congrArg Bank.cells (LaneSetting.eq_iff.2 ⟨rfl, rfl, rfl, rfl⟩).symm
  rw [LaneSetting.record, cells]
  rfl

theorem LaneSetting.length_record (setting : LaneSetting) : (LaneSetting.record setting).length = 8 := by
  rw [LaneSetting.record_eq]
  rfl

theorem State.length_laneRecord (s : State) (l : Fin 8) : (s.laneRecord l).length = 39 := by
  have staged : ((s.tx.get l).staged.elim (List.replicate 9 0) fun x => 1 :: LaneSetting.record x).length = 9 := by
    cases (s.tx.get l).staged with
    | none => rfl
    | some x => exact congrArg (· + 1) (LaneSetting.length_record x)
  simp only [State.laneRecord, List.length_append, LaneSetting.length_record, staged]
  rfl

/-- A survey answers no more than sixteen labels (R154). -/
theorem length_surveyRecord {params : List Byte} {r : SurveyRequest} (read : readSurvey params = some r) (tab : Table) :
    (surveyRecord (r.page tab)).length ≤ 35 := by
  have maximum : 1 ≤ r.maximum ∧ r.maximum ≤ 16 := by
    unfold readSurvey at read
    split at read
    · simp only [Option.bind_eq_bind, Option.bind_eq_some_iff, Option.pure_def, Option.some.injEq] at read
      obtain ⟨_, _, rfl⟩ := read
      dsimp only
      omega
    · cases read
  have labels : (r.page tab).1.length ≤ r.maximum := by
    obtain ⟨_, short⟩ | ⟨_, _, before, _, _, _, page, full, _⟩ := r.page_cases tab maximum.1
    · exact short.le
    · rw [page, List.length_append, List.length_singleton, full]
  simp only [surveyRecord, List.length_cons, List.length_append, List.length_flatMap, length_bytes16, List.map_const',
    List.sum_replicate, smul_eq_mul]
  omega

/-- A record with at most eight entries fits a reply (R54, R68). -/
theorem Track.length_record_le {t : Track} (few : t.entries.length ≤ 8) (i : Fin 256) : (t.record i).length ≤ 114 := by
  rw [t.length_record]
  split <;> split <;> omega

/-! ### The ways to answer (R174, R175) -/

/-- What command `c` makes of the part: a refusal, with data only where a set is full or a label unknown, or DONE. -/
inductive State.Answers (s : State) : Command → State → Prop
  | refused {c : Command} (r : Result) : s.Answers c (s.refuse c r)
  | setFull (set : Byte) : s.Answers .admitTrack (s.answer .admitTrack .setFull [set])
  | noSuchTrack (set ways : Byte) : s.Answers .find (s.answer .find .noSuchTrack [set, ways])
  | done {c : Command} {u : State} {data : List Byte} (queue : u.pending = s.pending)
      (fits : s.table.Every (fun t => t.entries.length ≤ 8) → data.length ≤ 114) : s.Answers c (u.answer c .done data)

section
variable {s : State} {c : Command}

/-- The event of a command that takes a table in place of the part's, settled. -/
theorem State.Answers.settled {tab : Table} {data : List Byte} (fits : data.length ≤ 114) :
    s.Answers c ((State.settle s { s with table := tab }).answer c .done data) :=
  .done ((s.tableOnly_with tab).trans (State.tableOnly_settle ..)).pending fun _ => fits

/-- One check of a command, refused where it fails. -/
theorem State.Answers.check {failed : Prop} [Decidable failed] {r : Result} {t : State}
    (passed : ¬failed → s.Answers c t) : s.Answers c (if failed then s.refuse c r else t) := by
  split
  · exact .refused r
  · next holds => exact passed holds
end

section
variable (s : State) (params : List Byte)

theorem State.answers_doRestart : s.Answers .restart s.doRestart := by
  have queue := s.eventOnly_finishLines.1
  unfold State.doRestart
  generalize s.finishLines = u at queue ⊢
  refine .done ?_ fun _ => Nat.le_add_left 7 107
  exact queue

theorem State.answers_doPurge : s.Answers .purge s.doPurge := by
  have queue := s.eventOnly_finishLines.1
  unfold State.doPurge
  generalize s.finishLines = u at queue ⊢
  refine .done ?_ fun _ => Nat.zero_le _
  exact queue

theorem State.answers_doSetup : s.Answers .setup (s.doSetup params) := by
  unfold State.doSetup
  split
  · exact .refused _
  · exact .done rfl fun _ => Nat.zero_le _

theorem State.answers_doAttend : s.Answers .attend (s.doAttend params) := by
  unfold State.doAttend
  split
  · exact .refused _
  · exact .done rfl fun _ => s.length_attentionRecord.trans_le (by decide)

theorem State.answers_doAdmit : s.Answers .admitTrack (s.doAdmit params) := by
  unfold State.doAdmit
  split
  · exact .refused _
  · refine .check fun _ => ?_
    split
    · exact .setFull _
    · exact .check fun _ => .check fun _ => .settled (Nat.le_add_left 1 113)

theorem State.answers_doFind : s.Answers .find (s.doFind params) := by
  unfold State.doFind
  split
  · exact .refused _
  · split
    · exact .noSuchTrack _ _
    · next i t found => exact .done rfl fun few => Track.length_record_le (few i t (Table.lookup_eq_some found).1) i

theorem State.answers_doOwner : s.Answers .owner (s.doOwner params) := by
  unfold State.doOwner
  split
  · exact .refused _
  · next d _ => exact .done rfl fun _ => (s.table.length_ownerRecord d).trans_le (by decide)

theorem State.answers_doAmend : s.Answers .amend (s.doAmend params) := by
  unfold State.doAmend
  split
  · exact .refused _
  · split
    · exact .refused _
    · exact .check fun _ => .check fun _ => .check fun _ => .settled (Nat.zero_le _)

theorem State.answers_doAttach : s.Answers .attach (s.doAttach params) := by
  unfold State.doAttach
  split
  · exact .refused _
  · split
    · exact .refused _
    · refine .check fun _ => ?_
      split
      · exact .settled (Nat.zero_le _)
      · exact .check fun _ => .check fun _ => .check fun _ => .settled (Nat.zero_le _)

theorem State.answers_doDetach : s.Answers .detach (s.doDetach params) := by
  unfold State.doDetach
  split
  · exact .refused _
  · split
    · exact .refused _
    · refine .check fun _ => .check fun _ => ?_
      split
      · exact .refused _
      · exact .settled (Nat.zero_le _)

theorem State.answers_doRetire : s.Answers .retire (s.doRetire params) := by
  unfold State.doRetire
  split
  · exact .refused _
  · split
    · exact .refused _
    · exact .check fun _ => .check fun _ => .check fun _ => .settled (Nat.zero_le _)

theorem State.answers_doGuard : s.Answers .guard (s.doGuard params) := by
  unfold State.doGuard
  split
  · exact .refused _
  · split
    · exact .refused _
    · exact .check fun _ => .done rfl fun _ => Nat.zero_le _

theorem State.answers_doSurvey : s.Answers .survey (s.doSurvey params) := by
  unfold State.doSurvey
  split
  · exact .refused _
  · next read => exact .done rfl fun _ => (length_surveyRecord read s.table).trans (by decide)

theorem State.answers_doLane : s.Answers .lane (s.doLane params) := by
  unfold State.doLane
  split
  · exact .refused _
  · exact .check fun _ => .done (State.tableOnly_settle ..).pending fun _ => Nat.zero_le _

theorem State.answers_doLaneQuery : s.Answers .laneQuery (s.doLaneQuery params) := by
  unfold State.doLaneQuery
  split
  · exact .refused _
  · next l _ => exact .done rfl fun _ => (s.length_laneRecord l).trans_le (by decide)

theorem State.answers_doReference : s.Answers .reference (s.doReference params) := by
  unfold State.doReference
  split
  · exact .refused _
  · exact .done (s.eventOnly_setReference ..).1 fun _ => (RefUnit.length_record _).trans_le (by decide)

/-- Every command that executes is refused or done. -/
theorem State.answers_perform (c : Command) : s.Answers c (s.perform c params) := by
  cases c with
  | identify => exact .done rfl fun _ => by decide
  | restart => exact s.answers_doRestart
  | setup => exact s.answers_doSetup params
  | attend => exact s.answers_doAttend params
  | admitTrack => exact s.answers_doAdmit params
  | find => exact s.answers_doFind params
  | owner => exact s.answers_doOwner params
  | amend => exact s.answers_doAmend params
  | attach => exact s.answers_doAttach params
  | detach => exact s.answers_doDetach params
  | retire => exact s.answers_doRetire params
  | guard => exact s.answers_doGuard params
  | survey => exact s.answers_doSurvey params
  | purge => exact s.answers_doPurge
  | lane => exact s.answers_doLane params
  | laneQuery => exact s.answers_doLaneQuery params
  | reference => exact s.answers_doReference params
  | referenceQuery => exact .done rfl fun _ => s.ref.length_record.trans_le (by decide)
  | align => exact .done rfl fun _ => Nat.zero_le _

/-- So also where its frame is too long for the port (R173; log 12). -/
theorem State.answers_wholeFrame (c : Command) : s.closePort.Answers c (s.wholeFrame c params (State.perform c params)) := by
  unfold State.wholeFrame
  split
  · exact .refused _
  · exact s.closePort.answers_perform params c
end

/-! ### Every row of a command -/

theorem exec_row_answered {c : Command} {params : List Byte} {s t : State} (released : s.resetHeld = false)
    (ran : exec (c.row params) s = .next t) : s.closePort.Answers c t := by
  rw [exec_row, State.running_released released] at ran
  cases ran
  exact s.answers_wholeFrame params c

/-- Settles O10: each way to answer holds the code of its command, and what is not DONE has changed the held reply only. -/
theorem refusalChangesOnlyTheReply : Obligations.RefusalChangesOnlyTheReply := by
  intro c params s t released ran
  cases exec_row_answered released ran with
  | refused r => exact ⟨rfl, fun _ => ⟨rfl, .inl rfl⟩⟩
  | setFull set => exact ⟨rfl, fun _ => ⟨rfl, .inr (.inl ⟨rfl, rfl⟩)⟩⟩
  | noSuchTrack set ways => exact ⟨rfl, fun _ => ⟨rfl, .inr (.inr ⟨rfl, rfl⟩)⟩⟩
  | done queue fits => exact ⟨rfl, fun refused => absurd rfl refused⟩

/-- Settles O11: refusals carry two bytes at most, and the longest answer is the record of a track with eight entries. -/
theorem repliesFitTheFrame : Obligations.RepliesFitTheFrame := by
  intro c params s t released few ran
  cases exec_row_answered released ran with
  | refused r => exact Nat.zero_le _
  | setFull set => exact Nat.le_add_left 1 113
  | noSuchTrack set ways => exact Nat.le_add_left 2 112
  | done queue fits => exact fits few

/-! ### Every command of the block goes on -/

theorem State.Answers.pending {s t : State} {c : Command} (h : s.Answers c t) : t.pending = s.pending := by
  cases h with
  | refused | setFull | noSuchTrack => rfl
  | done queue _ => exact queue

theorem State.pending_judgeFrame (s : State) (frame : List Byte) : (s.judgeFrame frame).pending = s.pending := by
  unfold State.judgeFrame
  split
  · rfl
  · rfl
  · split
    · unfold State.executeFrame
      split
      · rfl
      · exact (s.answers_perform _ _).pending
    · rfl

/-- Held in reset or not, an event that leaves the queue goes on and leaves it. -/
theorem State.running_pending {s : State} {event : State → State} (h : (event s).pending = s.pending) :
    ∃ t, s.running event = .next t ∧ t.pending = s.pending := by
  cases held : s.resetHeld with
  | true => exact ⟨s, State.running_held held event, rfl⟩
  | false => exact ⟨event s, State.running_released held event, h⟩

theorem exec_row_pending (c : Command) (params : List Byte) (s : State) :
    ∃ t, exec (c.row params) s = .next t ∧ t.pending = s.pending := by
  rw [exec_row]
  exact State.running_pending (s.answers_wholeFrame params c).pending

/-- No row ends in a fault or a refusal. -/
theorem exec_next (c : Instr) (s : State) : ∃ t, exec c s = .next t := by
  cases c <;> exact ⟨_, rfl⟩

/-- Settles O2: signals leave the queue, and so do the rows of the port, whatever they answer. -/
theorem everyCommandGoesOn : Obligations.EveryCommandGoesOn := by
  intro c s
  cases c with
  | resetAsserted | resetReleased => exact ⟨_, rfl, rfl⟩
  | selectAsserted =>
    rw [exec, execSelectAsserted]
    exact State.running_pending rfl
  | selectReleased after bits =>
    rw [exec, execSelectReleased]
    refine State.running_pending ?_
    dsimp only
    split
    · exact State.pending_judgeFrame ..
    · rfl
  | portByteShifted bits =>
    rw [exec, execPortByteShifted]
    refine State.running_pending ?_
    split <;> rfl
  | identify params => exact exec_row_pending .identify params s
  | restart params => exact exec_row_pending .restart params s
  | setup params => exact exec_row_pending .setup params s
  | attend params => exact exec_row_pending .attend params s
  | admitTrack params => exact exec_row_pending .admitTrack params s
  | find params => exact exec_row_pending .find params s
  | owner params => exact exec_row_pending .owner params s
  | amend params => exact exec_row_pending .amend params s
  | attach params => exact exec_row_pending .attach params s
  | detach params => exact exec_row_pending .detach params s
  | retire params => exact exec_row_pending .retire params s
  | guard params => exact exec_row_pending .guard params s
  | survey params => exact exec_row_pending .survey params s
  | purge params => exact exec_row_pending .purge params s
  | lane params => exact exec_row_pending .lane params s
  | laneQuery params => exact exec_row_pending .laneQuery params s
  | reference params => exact exec_row_pending .reference params s
  | referenceQuery params => exact exec_row_pending .referenceQuery params s
  | align params => exact exec_row_pending .align params s
  | _ =>
    obtain ⟨t, ran⟩ := exec_next _ s
    exact ⟨t, ran, (eventOnly_exec_of_isSignal rfl ran).1⟩

end Sys2Proof.Machine
end

section
/-! The reset line and RESTART (R179, R180): the starting values, and the laws that they meet; the queries of identity,
reference and lanes (R31, R151, R177). -/

namespace Sys2Proof.Machine

/-! ### The reset line (R180; log 14) -/

/-- While the line is asserted no block runs. -/
theorem exec_held {s : State} (held : s.resetHeld = true) {c : Instr} (asserted : c ≠ .resetAsserted)
    (released : c ≠ .resetReleased) : exec c s = .next s := by
  cases c with
  | resetAsserted => exact absurd rfl asserted
  | resetReleased => exact absurd rfl released
  | _ => exact congrArg Host.Outcome.next (if_pos held)

/-- The part that the release of the line leaves, its queue kept (R180). -/
def State.released (s : State) : State := { State.reset with pending := s.pending }

theorem exec_resetReleased (s : State) : exec .resetReleased s = .next s.released := rfl

theorem Window.get_reset (i : Fin 16) : Window.reset.get i = 0 := Bank.get_fill ..
theorem GroupRx.windows_reset (c : Fin 4) : GroupRx.reset.windows.get c = Window.reset := Bank.get_fill ..
theorem LaneRx.groups_reset (g : Fin 4) : LaneRx.reset.groups.get g = GroupRx.reset := Bank.get_fill ..
theorem ConsoleRx.windows_reset (n : Fin 64) : ConsoleRx.reset.windows.get n = Window.reset := Bank.get_fill ..
theorem LaneTx.groups_reset (g : Fin 4) : LaneTx.reset.groups.get g = ⟨.pass, .w24⟩ := Bank.get_fill ..
theorem Table.slots_reset (i : Fin 256) : Table.reset.slots.get i = none := Bank.get_fill ..
theorem Table.ownerOf_reset (d : Dest) : Table.reset.ownerOf d = none := Bank.get_fill ..

section
variable (s : State)

theorem State.released_rx (l : Fin 8) : s.released.rx.get l = LaneRx.reset := Bank.get_fill ..
theorem State.released_tx (l : Fin 8) : s.released.tx.get l = LaneTx.reset := Bank.get_fill ..
end

/-- Settles O4: no block runs while the line is asserted, and its release sets each block whatever stood before. -/
theorem resetLine : Obligations.ResetLine := by
  refine ⟨fun c s held asserted released => exec_held held asserted released, fun s => rfl, fun s => ?_⟩
  refine ⟨s.released, exec_resetReleased s, rfl, rfl, ?ref, fun l => ?lane, ⟨rfl, rfl, rfl, fun n i => ?console⟩,
    ⟨Table.slots_reset, Table.ownerOf_reset, rfl, rfl⟩, rfl, fun l => ?transmitter, rfl, rfl, rfl, rfl, rfl, rfl, rfl,
    _, exec_selectAsserted rfl, rfl⟩
  case ref =>
    have nominal : Format.p1.nominal = 1920 * Config.unitsPerSample := by decide
    exact ⟨rfl, rfl, rfl, rfl, rfl, rfl, nominal, rfl, rfl, rfl, rfl, rfl, rfl, rfl, rfl⟩
  case lane =>
    rw [s.released_rx]
    refine ⟨rfl, rfl, rfl, rfl, rfl, fun g => ?_⟩
    rw [LaneRx.groups_reset]
    exact ⟨rfl, rfl, rfl, fun c i => by rw [GroupRx.windows_reset, Window.get_reset]⟩
  case console =>
    have silent : s.released.console.windows.get n = Window.reset := ConsoleRx.windows_reset n
    rw [silent, Window.get_reset]
  case transmitter =>
    have plan : Plan.of .p1 0 = ⟨1920, 1123⟩ := by decide
    rw [s.released_tx]
    exact ⟨rfl, rfl, rfl, plan, rfl, rfl, rfl, LaneTx.groups_reset⟩

/-! ### The laws at the release (R63 to R66, R114, R124, R146) -/

theorem State.holds_reset (i : Fin 256) (t : Track) : ¬State.reset.table.holds i t := by
  have empty : State.reset.table.slots.get i = none := Table.slots_reset i
  rw [Table.holds, empty]
  nofun

theorem State.countLaw_reset : State.reset.CountLaw := by
  have lanes : State.reset.stagedLanes = 0 := State.stagedLanes_eq_zero fun l => by
    rw [show State.reset.tx.get l = LaneTx.reset from State.reset.released_tx l]
    rfl
  have empty (o : Option Track) (mem : o ∈ State.reset.table.slots.cells) : o = none := List.eq_of_mem_replicate mem
  have records : State.reset.table.records = 0 := List.countP_eq_zero.2 fun o mem => by
    rw [empty o mem]
    decide
  have items : (State.reset.table.slots.cells.map fun o => o.elim 0 Track.stagedItems).sum = 0 :=
    List.sum_eq_zero fun n mem => by
      obtain ⟨o, here, rfl⟩ := List.mem_map.1 mem
      rw [empty o here]
      rfl
  refine ⟨records.symm, ?_⟩
  rw [State.stagedItems, items, lanes]
  rfl

theorem RefUnit.sound_reset : RefUnit.reset.Sound :=
  ⟨Nat.zero_lt_one, Nat.zero_le _, nofun, fun _ => Nat.zero_le _, ⟨fun _ => rfl, fun _ => rfl⟩, nofun,
    fun _ => ⟨rfl, rfl⟩⟩

theorem Port.sound_reset : Port.reset.Sound :=
  ⟨nofun, Nat.le_refl 0, Nat.zero_lt_succ 7, fun _ => ⟨rfl, rfl, rfl, rfl⟩⟩

/-- Settles O56: no record stands to break a law on records, and each block starts within its bounds. -/
theorem resetMeetsEveryLaw : Obligations.ResetMeetsEveryLaw := by
  have every (law : Track → Prop) : State.reset.table.Every law := fun i t held => absurd held (State.holds_reset i t)
  refine ⟨Table.sound_of_empty rfl rfl, every _, every _, every _, every _, State.countLaw_reset,
    fun i t held => absurd held (State.holds_reset i t), ⟨by decide, by decide⟩, fun l => ?lane,
    ⟨Nat.zero_le _, Nat.zero_le _, fun _ => rfl⟩, RefUnit.sound_reset, Port.sound_reset⟩
  case lane =>
    rw [show State.reset.rx.get l = LaneRx.reset from State.reset.released_rx l]
    exact LaneRx.sound_reset

/-! ### IDENTIFY, ALIGN and the queries (R29, R31, R151, R177) -/

theorem readLaneQuery_byteOf (l : Fin 8) (rest : List Byte) : readLaneQuery (byteOf l :: rest) = some l := by
  refine readIndex_eq_some_iff.2 ?_
  rw [toNat_byteOf]
  omega

theorem readLaneQuery_beyond {b : Byte} (beyond : 8 ≤ b.toNat) (rest : List Byte) : readLaneQuery (b :: rest) = none :=
  dif_neg (Nat.not_lt.2 beyond)

theorem exec_laneQuery {s : State} {params : List Byte} {l : Fin 8} (takes : s.takes params)
    (read : readLaneQuery params = some l) :
    exec (.laneQuery params) s = .next (s.replied .laneQuery .done (s.laneRecord l)) :=
  exec_row_answers takes (c := .laneQuery) (by rw [State.perform, State.doLaneQuery, read]; rfl)

/-- Settles O13: the data of each query are its record, spelled out. -/
theorem identifyAlignAndQueriesAnswer : Obligations.IdentifyAlignAndQueriesAnswer := by
  intro params s takes
  refine ⟨exec_row_answers takes (c := .identify) rfl, exec_row_answers takes (c := .referenceQuery) rfl,
    exec_row_takes takes .align, fun l rest sent => ?lane, fun b rest sent beyond => ?beyond⟩
  case lane =>
    subst sent
    rw [exec_laneQuery takes (readLaneQuery_byteOf l rest)]
    refine congrArg (fun data => Host.Outcome.next (s.replied .laneQuery .done data)) ?_
    simp only [State.laneRecord, LaneSetting.record_eq]
    refine congrArg₂ _ (congrArg₂ _ (congrArg₂ _ (congrArg₂ _ rfl rfl) ?staged) ?receiver) rfl
    case staged => cases (s.tx.get l).staged <;> rfl
    case receiver => cases (s.rx.get l).format <;> cases (s.rx.get l).arrivingPhase <;> rfl
  case beyond =>
    subst sent
    exact exec_row_unread (c := .laneQuery) takes (Option.isNone_iff_eq_none.2 (readLaneQuery_beyond beyond rest))

/-! ### RESTART (R153, R179; log 20) -/

/-- A lane with no line reached keeps its transmitter while the others' lines are drawn. -/
theorem State.finish_tx_closed {s : State} {l : Fin 8} (closed : (s.tx.get l).line = none) (ls : List (Fin 8)) :
    (ls.foldl State.finishLine s).tx.get l = s.tx.get l := by
  induction ls generalizing s with
  | nil => rfl
  | cons k ls ih =>
    have same : (s.finishLine k).tx.get l = s.tx.get l := by
      by_cases here : k = l
      · subst here
        rw [State.finishLine, State.goOnLine_closed closed]
      · obtain ⟨slips, finished⟩ := s.finishLine_frame k
        rw [finished]
        exact Bank.get_set_ne _ _ here
    rw [List.foldl_cons, ih (by rw [same, closed]), same]

/-- Settles O14: the lines drawn whole change of the part only what RESTART sets anew, and each lane's blanking. -/
theorem restartSetsThePart : Obligations.RestartSetsThePart := by
  intro params s takes
  obtain ⟨drawn, closed⟩ : s.LinesOnly s.finishLines ∧ ∀ l ∈ List.finRange 8, (s.finishLines.tx.get l).line = none :=
    s.linesOnly_finish (List.finRange 8)
  have unreached (l : Fin 8) (closed : (s.tx.get l).line = none) : s.finishLines.tx.get l = s.tx.get l :=
    State.finish_tx_closed closed _
  have finished : s.closePort.finishLines = s.finishLines.withPort s.port.close := s.finishLines_withPort s.port.close
  have row : exec (.restart params) s = .next s.closePort.doRestart := exec_row_takes takes .restart
  refine ⟨Table.reset, s.finishLines.tx.map LaneTx.restart, ?restart, Table.slots_reset, Table.ownerOf_reset, rfl, rfl,
    fun l => ?lane, fun l closed => by rw [unreached l closed], fun t => State.attentionLine_restart takes⟩
  case restart =>
    rw [row, State.doRestart, finished]
    generalize s.finishLines = u at drawn ⊢
    obtain ⟨⟨slips, frame⟩, -⟩ := drawn
    rw [frame]
    rfl
  case lane =>
    rw [Bank.get_map, (drawn.2 l).1, closed l (List.mem_finRange l)]
    rfl

end Sys2Proof.Machine
end

section
/-! The step of the block: its queue runs from the front, and an empty queue idles (spec 00 section 3.3; log 2). -/

namespace Sys2Proof.Machine

/-- With nothing waiting the block idles (log 2). -/
theorem step_nil {s : State} (h : s.pending = []) : step s = .next s := by simp [step, h]

/-- Settles O1: `step_cons` and `step_nil` say what a step does for either form of the queue. -/
theorem stepRunsTheFrontCommand : Obligations.StepRunsTheFrontCommand :=
  ⟨fun _ _ _ waiting => step_cons waiting, fun _ idle => step_nil idle⟩

end Sys2Proof.Machine
end
